-- ==== Sys2Proof/Word.lean ====
section
/-! DEFINITION. The word types of SFCB (00_scope.md R10, R12): bytes, 32-bit words, 64-bit operands and results. -/

namespace Sys2Proof

/-- An 8-bit value: a wire byte (R14), a status (R10). -/
abbrev Byte := BitVec 8

/-- A 32-bit value: CMD, the CRC accumulator, a CRC table entry, a header's wire value (R10). -/
abbrev Word32 := BitVec 32

/-- A 64-bit value: OPA, OPB, RES, an extended length (R10). -/
abbrev Word64 := BitVec 64

/-- A truth value as one bit, for concatenations (R12, R13). -/
abbrev flagBit (b : Bool) : BitVec 1 := BitVec.ofBool b

end Sys2Proof
end

