-- ==== Sys2Proof/Syntax.lean ====
section
/-! DEFINITION. The 20 commands of SFCB command set version 1 (30_encoding.md R55), one constructor per row of the opcode map.

The command word carries no immediate but the byte count N of CRC_FEED (R53, R58); the operands OPA and OPB arrive beside
the command word on the port (R50), so they are no fields of an instruction. -/

namespace Sys2Proof

inductive Instr where
  /-- NOP, 40_control.md R70. -/
  | nop
  /-- ID, R71. -/
  | ident
  /-- STAT_RD, R72. -/
  | statRd
  /-- STAT_CLR, R73. -/
  | statClr
  /-- CRC_INIT, 42_crc.md R105. -/
  | crcInit
  /-- CRC_FEED with its byte count N, R106. -/
  | crcFeed (n : BitVec 4)
  /-- CRC_READ, R107. -/
  | crcRead
  /-- CRC_CHECK, R108. -/
  | crcCheck
  /-- CRC_TAB, R109. -/
  | crcTab
  /-- END_PROBE, 41_endian.md R81. -/
  | endProbe
  /-- END_SWAP64, R82. -/
  | endSwap64
  /-- END_HTON64, R83. -/
  | endHton64
  /-- END_NTOH64, R84. -/
  | endNtoh64
  /-- END_HTON32, R85. -/
  | endHton32
  /-- END_NTOH32, R86. -/
  | endNtoh32
  /-- END_HTON16, R87. -/
  | endHton16
  /-- END_NTOH16, R88. -/
  | endNtoh16
  /-- HDR_UNPACK, 43_header.md R134. -/
  | hdrUnpack
  /-- HDR_PACK, R136. -/
  | hdrPack
  /-- HDR_LEN, R137. -/
  | hdrLen
  deriving DecidableEq, Repr

end Sys2Proof
end

