-- ==== Sys2Proof/WellFormed.lean ====
section
/-! DEFINITION. Which instructions are well formed: CRC_FEED's byte count is 1 to 8 (30_encoding.md R53); no other command has a
field to check. -/

namespace Sys2Proof

/-- R53: "For CRC_FEED it is the number of bytes to feed, and it must be 1 to 8." -/
def Instr.wf : Instr → Bool
  | .crcFeed n => decide (1 ≤ n.toNat) && decide (n.toNat ≤ 8)
  | .nop => true
  | .ident => true
  | .statRd => true
  | .statClr => true
  | .crcInit => true
  | .crcRead => true
  | .crcCheck => true
  | .crcTab => true
  | .endProbe => true
  | .endSwap64 => true
  | .endHton64 => true
  | .endNtoh64 => true
  | .endHton32 => true
  | .endNtoh32 => true
  | .endHton16 => true
  | .endNtoh16 => true
  | .hdrUnpack => true
  | .hdrPack => true
  | .hdrLen => true

end Sys2Proof
end

