-- ==== Sys2Proof/Decode.lean ====
section
/-! DEFINITION. The decoder of the 32-bit command word (30_encoding.md R51 to R57), total and rejecting by name, and the encoder. -/

namespace Sys2Proof

/-- Why a command word is no instruction (R56, R57). The block answers every one of them with the one outcome of R162; which
name a word with several defects gets is the model's own choice (assumption log entry 10). -/
inductive DecodeError where
  /-- RSVD, CMD[31:12], is not 0 (R54). -/
  | reservedBits
  /-- OP, CMD[7:0], is not listed in R55 (R57). -/
  | reservedOp (op : BitVec 8)
  /-- N, CMD[11:8], is outside the range of the command that OP selects (R53). -/
  | badCount (n : BitVec 4)
  deriving DecidableEq, Repr

/-- OP, CMD[7:0] (R51). -/
def cmdOp (w : Word32) : BitVec 8 := w.extractLsb 7 0

/-- N, CMD[11:8] (R51). -/
def cmdN (w : Word32) : BitVec 4 := w.extractLsb 11 8

/-- RSVD, CMD[31:12] (R51). -/
def cmdRsvd (w : Word32) : BitVec 20 := w.extractLsb 31 12

/-- The opcode map (R55): the command that OP selects, with the byte count N where it takes one. -/
def instrOfOp (op : BitVec 8) (n : BitVec 4) : Option Instr :=
  match op.toNat with
  | 0x00 => some .nop
  | 0x01 => some .ident
  | 0x02 => some .statRd
  | 0x03 => some .statClr
  | 0x10 => some .crcInit
  | 0x11 => some (.crcFeed n)
  | 0x12 => some .crcRead
  | 0x13 => some .crcCheck
  | 0x14 => some .crcTab
  | 0x20 => some .endProbe
  | 0x21 => some .endSwap64
  | 0x22 => some .endHton64
  | 0x23 => some .endNtoh64
  | 0x24 => some .endHton32
  | 0x25 => some .endNtoh32
  | 0x26 => some .endHton16
  | 0x27 => some .endNtoh16
  | 0x30 => some .hdrUnpack
  | 0x31 => some .hdrPack
  | 0x32 => some .hdrLen
  | _ => none

/-- The byte counts CRC_FEED takes: 1 to 8 (R53). -/
def feedCount (n : BitVec 4) : Bool := decide (1 ≤ n.toNat) && decide (n.toNat ≤ 8)

/-- R56's third condition: for CRC_FEED, N is 1 to 8; for every other command it is 0. -/
def countInRange (i : Instr) (n : BitVec 4) : Bool :=
  match i with
  | .crcFeed _ => feedCount n
  | .nop => n == 0
  | .ident => n == 0
  | .statRd => n == 0
  | .statClr => n == 0
  | .crcInit => n == 0
  | .crcRead => n == 0
  | .crcCheck => n == 0
  | .crcTab => n == 0
  | .endProbe => n == 0
  | .endSwap64 => n == 0
  | .endHton64 => n == 0
  | .endNtoh64 => n == 0
  | .endHton32 => n == 0
  | .endNtoh32 => n == 0
  | .endHton16 => n == 0
  | .endNtoh16 => n == 0
  | .hdrUnpack => n == 0
  | .hdrPack => n == 0
  | .hdrLen => n == 0

/-- The decoder: a legal word (R56) gives its instruction, every other word is rejected by name. Legality depends on CMD alone. -/
def decode (w : Word32) : Except DecodeError Instr :=
  if cmdRsvd w ≠ 0 then .error .reservedBits
  else
    match instrOfOp (cmdOp w) (cmdN w) with
    | none => .error (.reservedOp (cmdOp w))
    | some i => if countInRange i (cmdN w) then .ok i else .error (.badCount (cmdN w))

/-- The decoder's answer for a row of the opcode table, whose bits the host numbers with bit 0 the least significant of CMD.
Bits from 32 on are operand words (assumption log entry 12), which no decoding reads (R56). -/
def decodeTableWord (nbits w : Nat) : Option Instr :=
  (decode (BitVec.ofNat 32 (w % 2 ^ nbits))).toOption

/-- The OP value of a command (R55). -/
def Instr.opcode : Instr → BitVec 8
  | .nop => 0x00
  | .ident => 0x01
  | .statRd => 0x02
  | .statClr => 0x03
  | .crcInit => 0x10
  | .crcFeed _ => 0x11
  | .crcRead => 0x12
  | .crcCheck => 0x13
  | .crcTab => 0x14
  | .endProbe => 0x20
  | .endSwap64 => 0x21
  | .endHton64 => 0x22
  | .endNtoh64 => 0x23
  | .endHton32 => 0x24
  | .endNtoh32 => 0x25
  | .endHton16 => 0x26
  | .endNtoh16 => 0x27
  | .hdrUnpack => 0x30
  | .hdrPack => 0x31
  | .hdrLen => 0x32

/-- The N value of a command: the byte count of CRC_FEED, 0 for every other command (R53). -/
def Instr.count : Instr → BitVec 4
  | .crcFeed n => n
  | .nop => 0
  | .ident => 0
  | .statRd => 0
  | .statClr => 0
  | .crcInit => 0
  | .crcRead => 0
  | .crcCheck => 0
  | .crcTab => 0
  | .endProbe => 0
  | .endSwap64 => 0
  | .endHton64 => 0
  | .endNtoh64 => 0
  | .endHton32 => 0
  | .endNtoh32 => 0
  | .endHton16 => 0
  | .endNtoh16 => 0
  | .hdrUnpack => 0
  | .hdrPack => 0
  | .hdrLen => 0

/-- The encoder: `rrrrrrrrrrrrrrrrrrrr nnnn oooooooo` (R51), RSVD = 0 (R54). -/
def encode (i : Instr) : Word32 := (0 : BitVec 20) ++ i.count ++ i.opcode

/-- One row of the opcode table as the spec's machine-readable copy gives it: a word belongs to the row when its bits under
`mask` are `pattern`. -/
structure OpcodeRow where
  mnemonic : String
  pattern : Word32
  mask : Word32
  deriving DecidableEq, Repr

/-- spec/opcode_table.json, row by row ("match" is the pattern). CRC_FEED's row leaves N free; its range 1 to 8 is R53's. -/
def opcodeRows : List OpcodeRow :=
  [⟨"NOP", 0x00000000, 0xFFFFFFFF⟩, ⟨"ID", 0x00000001, 0xFFFFFFFF⟩,
   ⟨"STAT_RD", 0x00000002, 0xFFFFFFFF⟩, ⟨"STAT_CLR", 0x00000003, 0xFFFFFFFF⟩] ++
  [⟨"CRC_INIT", 0x00000010, 0xFFFFFFFF⟩, ⟨"CRC_FEED", 0x00000011, 0xFFFFF0FF⟩,
   ⟨"CRC_READ", 0x00000012, 0xFFFFFFFF⟩, ⟨"CRC_CHECK", 0x00000013, 0xFFFFFFFF⟩,
   ⟨"CRC_TAB", 0x00000014, 0xFFFFFFFF⟩] ++
  [⟨"END_PROBE", 0x00000020, 0xFFFFFFFF⟩, ⟨"END_SWAP64", 0x00000021, 0xFFFFFFFF⟩,
   ⟨"END_HTON64", 0x00000022, 0xFFFFFFFF⟩, ⟨"END_NTOH64", 0x00000023, 0xFFFFFFFF⟩,
   ⟨"END_HTON32", 0x00000024, 0xFFFFFFFF⟩, ⟨"END_NTOH32", 0x00000025, 0xFFFFFFFF⟩,
   ⟨"END_HTON16", 0x00000026, 0xFFFFFFFF⟩, ⟨"END_NTOH16", 0x00000027, 0xFFFFFFFF⟩] ++
  [⟨"HDR_UNPACK", 0x00000030, 0xFFFFFFFF⟩, ⟨"HDR_PACK", 0x00000031, 0xFFFFFFFF⟩,
   ⟨"HDR_LEN", 0x00000032, 0xFFFFFFFF⟩]

/-- The rows of the opcode table that a word matches. -/
def rowsMatching (w : Word32) : List OpcodeRow :=
  opcodeRows.filter fun r => w &&& r.mask == r.pattern

/-- The mnemonic of a command (R55). -/
def Instr.mnemonic : Instr → String
  | .nop => "NOP"
  | .ident => "ID"
  | .statRd => "STAT_RD"
  | .statClr => "STAT_CLR"
  | .crcInit => "CRC_INIT"
  | .crcFeed _ => "CRC_FEED"
  | .crcRead => "CRC_READ"
  | .crcCheck => "CRC_CHECK"
  | .crcTab => "CRC_TAB"
  | .endProbe => "END_PROBE"
  | .endSwap64 => "END_SWAP64"
  | .endHton64 => "END_HTON64"
  | .endNtoh64 => "END_NTOH64"
  | .endHton32 => "END_HTON32"
  | .endNtoh32 => "END_NTOH32"
  | .endHton16 => "END_HTON16"
  | .endNtoh16 => "END_NTOH16"
  | .hdrUnpack => "HDR_UNPACK"
  | .hdrPack => "HDR_PACK"
  | .hdrLen => "HDR_LEN"

end Sys2Proof
end

