-- ==== Sys2Proof/Config.lean ====
section
/-! DEFINITION. The implementation parameters of SFCB (00_scope.md R6 to R8, R11) and this hardware's values of them. -/

namespace Sys2Proof

/-- HDR_REV: the wire revision of the inline length field (R7). -/
inductive HdrRev where
  | len8
  | len16
  deriving DecidableEq, Repr

/-- FLAG_ORDER: where FIN, RSP, MASK and RSV sit inside header byte 0 (R8). -/
inductive FlagOrder where
  | msbFirst
  | lsbFirst
  deriving DecidableEq, Repr

/-- The configuration record `Cfg = {HOST_BE, HDR_REV, FLAG_ORDER}` (R11): read by every rule, written by none. -/
structure Cfg where
  /-- HOST_BE: true iff the host's native byte order is big-endian (R6). -/
  hostBe : Bool
  hdrRev : HdrRev
  flagOrder : FlagOrder
  deriving DecidableEq, Repr

/-- HOST_BE is OPEN (R6, 92_eei_decisions.md D13): a property of the platform, so an opaque constant with no known value
(assumption log entry 5). -/
opaque Config.hostBe : Bool

/-- The configuration of this hardware: HOST_BE as the platform has it, LEN16 (R7) and MSB_FIRST (R8). -/
def Config.thisBlock : Cfg where
  hostBe := Config.hostBe
  hdrRev := .len16
  flagOrder := .msbFirst

end Sys2Proof
end

