-- ==== Sys2Proof/Machine/State.lean ====
section
/-! DEFINITION. The state of SFCB and of its command port, as plain data, and the state after reset.

The spec's own state is the pair (CRC, STICKY) (10_state.md R20). The configuration record is a constant (R29) that every step
keeps. The other fields are the model's own: the port's inputs and outputs (30_encoding.md R50), and the host agents with the
total order in which the port serves them (20_memory.md R44), since R21 leaves "the index of the next command" to the host. -/

namespace Sys2Proof.Machine

/-- The three inputs of one transaction on the command port (30_encoding.md R50). -/
structure Transaction where
  cmd : Word32
  opa : Word64
  opb : Word64
  deriving DecidableEq, Repr

/-- The two outputs of one transaction, RES and ST (R50), and the agent that issued it (60_exceptions.md R161). -/
structure Reply where
  agent : Nat
  res : Word64
  st : Byte
  deriving DecidableEq, Repr

/-- One entry of the port's total order of commands and resets (20_memory.md R44, 70_reset_and_hazards.md R181). -/
inductive Turn where
  /-- Agent `k` issues its next command, which runs to completion (R43). -/
  | agent (k : Nat)
  /-- The reset input is asserted between two commands (R180). -/
  | reset
  /-- The reset input is asserted while agent `k`'s next command is under way and cuts it short (R181). -/
  | resetDuring (k : Nat)
  /-- Power is lost and comes back: treated as reset (60_exceptions.md R173). -/
  | powerLoss
  deriving DecidableEq, Repr

structure State where
  /-- CRC, the accumulator in its external, post-complemented form (10_state.md R23). -/
  crc : Word32
  /-- STICKY: bit 0 ILL, bit 1 STRUCT, bit 2 CRCMIS (R27). -/
  sticky : BitVec 3
  /-- Cfg, the constant configuration record (R29). -/
  cfg : Cfg
  /-- The inputs of the command on the port (30_encoding.md R50). The model's own field. -/
  port : Transaction
  /-- The agent that issued it. The model's own field. -/
  issuer : Nat
  /-- What the last step returned on RES and ST, or none if it returned no result. Not state of the block (10_state.md R30):
  no meaning reads it. The model's own field. -/
  reply : Option Reply
  /-- For each agent, the commands it has still to issue, in its program order (20_memory.md R44). The model's own field. -/
  agents : List (List Transaction)
  /-- The total order still to be served (R44). The model's own field. -/
  order : List Turn
  deriving DecidableEq, Repr

/-- No fault exists: the block takes no traps and every command, legal or not, completes (60_exceptions.md R168,
70_reset_and_hazards.md R187). -/
inductive Fault where
  deriving DecidableEq, Repr

/-- Why the model gives an instruction no meaning. -/
inductive Refusal where
  /-- Raised by an arm of exec whose instruction has no meaning yet; safe. No arm raises it. -/
  | notModelled (mnemonic : String)
  deriving DecidableEq, Repr

/-- What a step answers. -/
abbrev Result := Host.Outcome State Fault Refusal

/-- The block right after reset (10_state.md R31): CRC = 0x00000000, STICKY = 0b000, Cfg as configured, and the model's own
fields empty: nothing on the port and no command waiting (assumption log entries 1, 3, 4). -/
def State.reset : State where
  crc := 0x00000000
  sticky := 0b000
  cfg := Config.thisBlock
  port := { cmd := 0, opa := 0, opb := 0 }
  issuer := 0
  reply := none
  agents := []
  order := []

end Sys2Proof.Machine
end

