-- ==== Sys2Proof/Machine/Flags.lean ====
section
/-! DEFINITION. The status ST a command returns and the accumulation of its error bits in STICKY (10_state.md R26 to R28,
60_exceptions.md R160). -/

namespace Sys2Proof.Machine

/-- ST with no bit set. -/
def stNone : Byte := 0x00

/-- ST.ILL, bit 0: the command word was illegal (R26). -/
def stIll : Byte := 0x01

/-- ST.STRUCT, bit 1: reserved header bits set (R26). -/
def stStruct : Byte := 0x02

/-- ST.CRCMIS, bit 2: CRC_CHECK found a mismatch (R26). -/
def stCrcmis : Byte := 0x04

/-- ST.EXT, bit 3: the extended-length path applies; information, not an error (R26). -/
def stExt : Byte := 0x08

/-- `flag X` when a condition holds (00_scope.md R16). -/
def flagIf (c : Bool) (bit : Byte) : Byte := if c then bit else stNone

/-- ST of the header commands: STRUCT and EXT are independent, and both are reported when both hold (60_exceptions.md R165). -/
def headerStatus (struct ext : Bool) : Byte := flagIf struct stStruct ||| flagIf ext stExt

/-- The error bits of ST, ST[2:0]; EXT has no sticky bit (R27). -/
def errorBits (st : Byte) : BitVec 3 := st.extractLsb 2 0

/-- `STICKY <- STICKY | ST[2:0]` (R28). -/
def accumulate (sticky : BitVec 3) (st : Byte) : BitVec 3 := sticky ||| errorBits st

end Sys2Proof.Machine
end

