-- ==== Sys2Proof/Machine/Operands.lean ====
section
/-! DEFINITION. The operand forms: the slices of OPA and OPB a command reads (20_memory.md R42, 30_encoding.md R58), wire bytes
and wire values (00_scope.md R14), byte reversal (R15), and the constants derived from the configuration (R9). -/

namespace Sys2Proof

/-- `zext_64(v)` (00_scope.md R13): results are zero-extended to 64 bits (20_memory.md R49). -/
def zext64 {w : Nat} (v : BitVec w) : Word64 := v.setWidth 64

/-- Byte `k` of a value, bits 8k+7 : 8k, byte 0 the least significant (00_scope.md R15). -/
def byteAt {w : Nat} (v : BitVec w) (k : Nat) : Byte := v.extractLsb' (8 * k) 8

/-- `wb_n(v)`: the n wire bytes of a value, most significant first; byte k is `v[8(n-1-k)+7 : 8(n-1-k)]` (00_scope.md R14). -/
def wireBytes {w : Nat} : Nat → BitVec w → List Byte
  | 0, _ => []
  | n + 1, v => byteAt v n :: wireBytes n v

/-- `wv(b)`: the number a byte sequence spells when read big-endian (00_scope.md R14). -/
def wireValue : List Byte → Nat
  | [] => 0
  | b :: bs => b.toNat * 256 ^ bs.length + wireValue bs

/-- `bswap_2` (00_scope.md R15). -/
def bswap16 (v : BitVec 16) : BitVec 16 := byteAt v 0 ++ byteAt v 1

/-- `bswap_4` (00_scope.md R15). -/
def bswap32 (v : Word32) : Word32 := byteAt v 0 ++ byteAt v 1 ++ byteAt v 2 ++ byteAt v 3

/-- `bswap_8` (00_scope.md R15). -/
def bswap64 (v : Word64) : Word64 :=
  byteAt v 0 ++ byteAt v 1 ++ byteAt v 2 ++ byteAt v 3 ++ byteAt v 4 ++ byteAt v 5 ++ byteAt v 6 ++ byteAt v 7

/-- LW, the width of the inline length field (00_scope.md R9). -/
def Cfg.lengthWidth (cfg : Cfg) : Nat :=
  match cfg.hdrRev with
  | .len8 => 8
  | .len16 => 16

/-- ESC, the escape sentinel `2^LW - 1` (00_scope.md R9). -/
def Cfg.esc (cfg : Cfg) : Nat := 2 ^ cfg.lengthWidth - 1

/-- MAX_INLINE, the largest inline length `ESC - 1` (00_scope.md R9). -/
def Cfg.maxInline (cfg : Cfg) : Nat := cfg.esc - 1

namespace Machine

/-- OPA[63:0]. -/
def opa64 (s : State) : Word64 := s.port.opa

/-- OPA[31:0]. -/
def opa32 (s : State) : Word32 := s.port.opa.extractLsb 31 0

/-- OPA[15:0]. -/
def opa16 (s : State) : BitVec 16 := s.port.opa.extractLsb 15 0

/-- OPA[7:0]. -/
def opa8 (s : State) : Byte := s.port.opa.extractLsb 7 0

/-- The N bytes on OPA[8N-1:0] in the order they are fed, `wb_N(OPA[8N-1:0])` (42_crc.md R106). -/
def opaBytes (n : Nat) (s : State) : List Byte := wireBytes n s.port.opa

/-- OPB[63:0]. -/
def opb64 (s : State) : Word64 := s.port.opb

/-- A port image of one transaction as one number, in the order of the table's format CMD32+OPA64+OPB64: CMD in bits 31:0, OPA in
bits 95:32, OPB in bits 159:96 (assumption log entry 12). -/
def transactionOfBits (w : Nat) : Transaction where
  cmd := BitVec.ofNat 32 w
  opa := BitVec.ofNat 64 (w >>> 32)
  opb := BitVec.ofNat 64 (w >>> 96)

end Machine

end Sys2Proof
end

