-- ==== Sys2Proof/Machine/Ops.lean ====
section
/-! DEFINITION. The shared operations: how a command completes (10_state.md R28, 60_exceptions.md R161), the illegal-command
outcome (60_exceptions.md R162), reset (10_state.md R31, 70_reset_and_hazards.md R180), and how the port takes a command from an agent
(20_memory.md R44).

The block takes no trap and has no return from one (60_exceptions.md R168): the illegal-command outcome is the only shared
error operation the spec gives it. -/

namespace Sys2Proof.Machine

/-- The end of every command but STAT_CLR: RES and ST go to the issuing agent (R161) and STICKY accumulates ST[2:0] (R28). -/
def State.finish (s : State) (res : Word64) (st : Byte) : State :=
  { s with sticky := accumulate s.sticky st, reply := some { agent := s.issuer, res := res, st := st } }

/-- The end of STAT_CLR: `STICKY <- 0` in place of the accumulation (R28, 40_control.md R73). -/
def State.finishClearing (s : State) (res : Word64) : State :=
  { s with sticky := 0, reply := some { agent := s.issuer, res := res, st := stNone } }

/-- `CRC <- v`. -/
def State.setCrc (s : State) (v : Word32) : State := { s with crc := v }

/-- `raise ILL()`: RES = 0, ST = 0x01, STICKY.ILL set, CRC unchanged, no other effect (60_exceptions.md R162). -/
def State.raiseIll (s : State) : State := s.finish 0 stIll

/-- Reset (R31, R180): CRC = 0, STICKY = 0b000, Cfg and the CRC table unchanged, no result returned (R181). The host's own
queues are not the block's, so reset leaves them (assumption log entry 8). -/
def State.applyReset (s : State) : State := { s with crc := 0, sticky := 0, reply := none }

/-- A step in which no command is on the port: nothing happens and no result is returned (assumption log entry 2). -/
def State.idle (s : State) : State := { s with reply := none }

/-- The next command of agent `k`, if it has one to issue. -/
def State.nextOf (s : State) (k : Nat) : Option Transaction :=
  match s.agents[k]? with
  | some (t :: _) => some t
  | some [] => none
  | none => none

/-- The agents' queues after agent `k` has issued its next command. -/
def issued (agents : List (List Transaction)) (k : Nat) : List (List Transaction) :=
  agents.modify k List.tail

/-- The port takes command `t` from agent `k`; `rest` is the order still to be served. -/
def State.accept (s : State) (k : Nat) (t : Transaction) (rest : List Turn) : State :=
  { s with port := t, issuer := k, agents := issued s.agents k, order := rest }

/-- The order still to be served becomes `rest`. -/
def State.withOrder (s : State) (rest : List Turn) : State := { s with order := rest }

/-- Agent `k`'s next command leaves its queue without having run (70_reset_and_hazards.md R181, assumption log entry 8). -/
def State.cutCommand (s : State) (k : Nat) : State := { s with agents := issued s.agents k }

/-- `t` put in front of the commands of agent 0. -/
def queueFirst (t : Transaction) : List (List Transaction) → List (List Transaction)
  | [] => [[t]]
  | q :: qs => (t :: q) :: qs

/-- `t` becomes the very next command the port serves, issued by agent 0. -/
def State.issueNext (s : State) (t : Transaction) : State :=
  { s with agents := queueFirst t s.agents, order := .agent 0 :: s.order }

end Sys2Proof.Machine
end

