-- ==== Sys2Proof/Machine/Control.lean ====
section
/-! DEFINITION. The control commands NOP, ID, STAT_RD and STAT_CLR (40_control.md R70 to R73), and the block's identifying
string (00_scope.md R2). -/

namespace Sys2Proof.Machine

/-- NOP: `RES <- 0; ST <- 0` (R70). -/
def execNop (s : State) : Result := .next (s.finish 0 stNone)

/-- The identification word of R71: "SFCB" in bits 63:32, FLAG_ORDER in bit 10, HDR_REV in bit 9, HOST_BE in bit 8, and the
command-set version 1 in bits 7:0. -/
def idWord (cfg : Cfg) : Word64 :=
  (0x53464342 : BitVec 32) ++ (0 : BitVec 21) ++ flagBit (cfg.flagOrder == .lsbFirst) ++ flagBit (cfg.hdrRev == .len16) ++
    flagBit cfg.hostBe ++ (0x01 : BitVec 8)

/-- ID: read the identity and configuration (R71). -/
def execIdent (s : State) : Result := .next (s.finish (idWord s.cfg) stNone)

/-- STAT_RD: `RES <- zext_64(STICKY); ST <- 0` (R72). -/
def execStatRd (s : State) : Result := .next (s.finish (zext64 s.sticky) stNone)

/-- STAT_CLR: `RES <- zext_64(STICKY); STICKY <- 0; ST <- 0` (R73). -/
def execStatClr (s : State) : Result := .next (s.finishClearing (zext64 s.sticky))

/-- The identifying string `SFCB-1/<HDR_REV>/<FLAG_ORDER>/HOST_BE=<0|1>` (00_scope.md R2). -/
def identifyingString (cfg : Cfg) : String :=
  "SFCB-1/" ++ (match cfg.hdrRev with | .len8 => "LEN8" | .len16 => "LEN16") ++ "/" ++
    (match cfg.flagOrder with | .msbFirst => "MSB_FIRST" | .lsbFirst => "LSB_FIRST") ++ "/HOST_BE=" ++
    (if cfg.hostBe then "1" else "0")

end Sys2Proof.Machine
end

