-- ==== Sys2Proof/Machine/Crc.lean ====
section
/-! DEFINITION. The CRC unit: the table, the byte step, `calculate`, and the commands CRC_INIT, CRC_FEED, CRC_READ, CRC_CHECK and
CRC_TAB (42_crc.md R100 to R110). -/

namespace Sys2Proof

/-- `P = 0xEDB88320`, the reflected CRC-32 polynomial (R101). -/
def crcPoly : Word32 := 0xEDB88320

/-- One shift of the table construction: `if c[0] == 1 then P ^ (c >> 1) else (c >> 1)` (R101). -/
def crcShift (c : Word32) : Word32 :=
  if c.getLsbD 0 then crcPoly ^^^ (c >>> 1) else c >>> 1

/-- `k` shifts in a row. -/
def crcShifts : Nat → Word32 → Word32
  | 0, c => c
  | k + 1, c => crcShifts k (crcShift c)

/-- Entry `i` of the constant 256-entry table T: eight shifts of `zext_32(i)` (R101). -/
def crcTable (i : Byte) : Word32 := crcShifts 8 (i.setWidth 32)

/-- The byte step on the internal register value: `T[(c ^ zext_32(b)) & 0xFF] ^ (c >> 8)` (R102). -/
def crcStep (c : Word32) (b : Byte) : Word32 :=
  crcTable ((c ^^^ b.setWidth 32).extractLsb 7 0) ^^^ (c >>> 8)

/-- The bitwise form of the byte step (R110); not used by any command. -/
def crcStepBitwise (c : Word32) (b : Byte) : Word32 := crcShifts 8 (c ^^^ b.setWidth 32)

/-- `calculate(seed, b)`: complement, a step for each byte in order, complement (R103). -/
def calculate (seed : Word32) (bytes : List Byte) : Word32 :=
  bytes.foldl crcStep (seed ^^^ 0xFFFFFFFF) ^^^ 0xFFFFFFFF

namespace Machine

/-- CRC_INIT: `CRC <- OPA[31:0]; RES <- zext_64(OPA[31:0]); ST <- 0` (R105). -/
def execCrcInit (s : State) : Result := .next ((s.setCrc (opa32 s)).finish (zext64 (opa32 s)) stNone)

/-- The accumulator after CRC_FEED with N = n: `calculate(CRC, wb_N(OPA[8N-1:0]))` (R106). -/
def fedCrc (n : Nat) (s : State) : Word32 := calculate s.crc (opaBytes n s)

/-- CRC_FEED: the accumulator takes the N bytes of OPA, and RES is the new value (R106). An N outside 1..8, which no legal word
carries, takes the illegal-command outcome (R106, "ILL if N = 0 or N > 8"; assumption log entry 11). -/
def execCrcFeed (n : BitVec 4) (s : State) : Result :=
  if feedCount n then
    .next ((s.setCrc (fedCrc n.toNat s)).finish (zext64 (fedCrc n.toNat s)) stNone)
  else .next s.raiseIll

/-- CRC_READ: `RES <- zext_64(CRC); ST <- 0` (R107). -/
def execCrcRead (s : State) : Result := .next (s.finish (zext64 s.crc) stNone)

/-- CRC_CHECK: an exact comparison of CRC with OPA[31:0]; RES is 1 on a match, and a mismatch flags CRCMIS (R108). -/
def execCrcCheck (s : State) : Result :=
  .next (s.finish (zext64 (flagBit (s.crc == opa32 s))) (flagIf (s.crc != opa32 s) stCrcmis))

/-- CRC_TAB: `RES <- zext_64(T[OPA[7:0]]); ST <- 0` (R109). -/
def execCrcTab (s : State) : Result := .next (s.finish (zext64 (crcTable (opa8 s))) stNone)

end Machine

end Sys2Proof
end

