-- ==== Sys2Proof/Machine/Endian.lean ====
section
/-! DEFINITION. The endian unit: END_PROBE, END_SWAP64 and the six host/network conversions (41_endian.md R80 to R88), and what a
host of either byte order sees in its memory (R90). -/

namespace Sys2Proof

/-- Host and network order, 64 bits: "byte-reverses the 8 bytes iff the host is not network-endian" (R83, R84). -/
def convert64 (cfg : Cfg) (x : Word64) : Word64 := if cfg.hostBe then x else bswap64 x

/-- Host and network order, 32 bits (R85, R86). -/
def convert32 (cfg : Cfg) (x : Word32) : Word32 := if cfg.hostBe then x else bswap32 x

/-- Host and network order, 16 bits (R87, R88). -/
def convert16 (cfg : Cfg) (x : BitVec 16) : BitVec 16 := if cfg.hostBe then x else bswap16 x

/-- The 8 bytes in the memory of a host that stores a 64-bit value as a native integer, lowest address first:
`wb_8(y)` on a big-endian host, `wb_8(bswap_8(y))` on a little-endian one (R90). -/
def nativeStore64 (hostBe : Bool) (y : Word64) : List Byte :=
  wireBytes 8 (if hostBe then y else bswap64 y)

/-- The value a host loads as a native 64-bit integer from 8 bytes of its memory, lowest address first: their wire value on
a big-endian host, `bswap_8` of it on a little-endian one (20_memory.md R38, R90). -/
def nativeLoad64 (hostBe : Bool) (bytes : List Byte) : Word64 :=
  let v : Word64 := BitVec.ofNat 64 (wireValue bytes)
  if hostBe then v else bswap64 v

namespace Machine

/-- END_PROBE: `RES <- zext_64(HOST_BE)` (R81). -/
def execEndProbe (s : State) : Result := .next (s.finish (zext64 (flagBit s.cfg.hostBe)) stNone)

/-- END_SWAP64: `RES <- bswap_8(x)`, unconditionally (R82). -/
def execEndSwap64 (s : State) : Result := .next (s.finish (bswap64 (opa64 s)) stNone)

/-- END_HTON64 (R83). -/
def execEndHton64 (s : State) : Result := .next (s.finish (convert64 s.cfg (opa64 s)) stNone)

/-- END_NTOH64, the same function as END_HTON64 (R84). -/
def execEndNtoh64 (s : State) : Result := .next (s.finish (convert64 s.cfg (opa64 s)) stNone)

/-- END_HTON32: OPA[63:32] is ignored and RES[63:32] = 0 (R85). -/
def execEndHton32 (s : State) : Result := .next (s.finish (zext64 (convert32 s.cfg (opa32 s))) stNone)

/-- END_NTOH32, the same function as END_HTON32 (R86). -/
def execEndNtoh32 (s : State) : Result := .next (s.finish (zext64 (convert32 s.cfg (opa32 s))) stNone)

/-- END_HTON16: OPA[63:16] is ignored and RES[63:16] = 0 (R87). -/
def execEndHton16 (s : State) : Result := .next (s.finish (zext64 (convert16 s.cfg (opa16 s))) stNone)

/-- END_NTOH16, the same function as END_HTON16 (R88). -/
def execEndNtoh16 (s : State) : Result := .next (s.finish (zext64 (convert16 s.cfg (opa16 s))) stNone)

end Machine

end Sys2Proof
end

