-- ==== Sys2Proof/Machine/Header.lean ====
section
/-! DEFINITION. The header unit: the wire layout of the 4-byte header under every configuration (43_header.md R132), the field word
(R133), and the commands HDR_UNPACK, HDR_PACK and HDR_LEN (R134 to R138). -/

namespace Sys2Proof

/-- The fields of a header, as the field word FW carries them (R133). -/
structure HeaderFields where
  fin : Bool
  rsp : Bool
  mask : Bool
  rsv : BitVec 5
  opcode : Byte
  /-- The inline length field, zero-extended under LEN8. -/
  len : BitVec 16
  /-- Header byte 3 under LEN8, 0 under LEN16. -/
  pad : Byte
  deriving DecidableEq, Repr

/-- FW.EXT: LEN is the escape sentinel (R133). -/
def HeaderFields.ext (cfg : Cfg) (h : HeaderFields) : Bool := h.len.toNat == cfg.esc

/-- FW.RSVNZ: RSV is not 0 (R133). -/
def HeaderFields.rsvnz (h : HeaderFields) : Bool := h.rsv != 0

/-- The fields of the header whose wire value is `hw` (R132, R134). -/
def unpackHeader (cfg : Cfg) (hw : Word32) : HeaderFields :=
  let h0 : Byte := hw.extractLsb 31 24
  let h1 : Byte := hw.extractLsb 23 16
  let h2 : Byte := hw.extractLsb 15 8
  let h3 : Byte := hw.extractLsb 7 0
  { fin := match cfg.flagOrder with | .msbFirst => h0.getLsbD 7 | .lsbFirst => h0.getLsbD 0
    rsp := match cfg.flagOrder with | .msbFirst => h0.getLsbD 6 | .lsbFirst => h0.getLsbD 1
    mask := match cfg.flagOrder with | .msbFirst => h0.getLsbD 5 | .lsbFirst => h0.getLsbD 2
    rsv := match cfg.flagOrder with | .msbFirst => h0.extractLsb 4 0 | .lsbFirst => h0.extractLsb 7 3
    opcode := h1
    len := match cfg.hdrRev with | .len16 => h2 ++ h3 | .len8 => h2.setWidth 16
    pad := match cfg.hdrRev with | .len16 => 0 | .len8 => h3 }

/-- The field word FW (R133): RSVNZ [41], EXT [40], PAD [39:32], FIN [31], RSP [30], MASK [29], RSV [28:24], OPCODE [23:16],
LEN [15:0], and 0 above. -/
def fieldWord (cfg : Cfg) (h : HeaderFields) : Word64 :=
  (0 : BitVec 22) ++ flagBit h.rsvnz ++ flagBit (h.ext cfg) ++ h.pad ++ flagBit h.fin ++ flagBit h.rsp ++ flagBit h.mask ++
    h.rsv ++ h.opcode ++ h.len

/-- FW.FIN. -/
def fwFin (f : Word64) : Bool := f.getLsbD 31

/-- FW.RSP. -/
def fwRsp (f : Word64) : Bool := f.getLsbD 30

/-- FW.MASK. -/
def fwMask (f : Word64) : Bool := f.getLsbD 29

/-- FW.RSV. -/
def fwRsv (f : Word64) : BitVec 5 := f.extractLsb 28 24

/-- FW.OPCODE. -/
def fwOpcode (f : Word64) : Byte := f.extractLsb 23 16

/-- FW.LEN as HDR_LEN reads it: bits 15:0 under LEN16, bits 7:0 under LEN8 (R137). -/
def fwLen (cfg : Cfg) (f : Word64) : BitVec 16 :=
  match cfg.hdrRev with
  | .len16 => f.extractLsb 15 0
  | .len8 => (f.extractLsb 7 0).setWidth 16

/-- A payload of `l` bytes needs the extended length: `L >= ESC` (R136). -/
def needsExtended (cfg : Cfg) (l : Word64) : Bool := decide (cfg.esc ≤ l.toNat)

/-- The inline length field for a payload of `l` bytes: ESC when it needs the extended length, else `l` (R136). -/
def inlineLength (cfg : Cfg) (l : Word64) : BitVec 16 :=
  if needsExtended cfg l then BitVec.ofNat 16 cfg.esc else l.extractLsb 15 0

/-- The packed header byte 0, RSV written as 0 (R136). -/
def packByte0 (cfg : Cfg) (f : Word64) : Byte :=
  match cfg.flagOrder with
  | .msbFirst => flagBit (fwFin f) ++ flagBit (fwRsp f) ++ flagBit (fwMask f) ++ (0 : BitVec 5)
  | .lsbFirst => (0 : BitVec 5) ++ flagBit (fwMask f) ++ flagBit (fwRsp f) ++ flagBit (fwFin f)

/-- The wire value of the packed header; PAD is written 0 under LEN8 (R136). -/
def packHeader (cfg : Cfg) (f l : Word64) : Word32 :=
  match cfg.hdrRev with
  | .len16 => packByte0 cfg f ++ fwOpcode f ++ inlineLength cfg l
  | .len8 => packByte0 cfg f ++ fwOpcode f ++ (inlineLength cfg l).extractLsb 7 0 ++ (0 : BitVec 8)

/-- RES of HDR_PACK: `zext_64({ext [32], hw [31:0]})` (R136). -/
def packResult (cfg : Cfg) (f l : Word64) : Word64 :=
  zext64 (flagBit (needsExtended cfg l) ++ packHeader cfg f l)

/-- The payload length HDR_LEN selects: the extended length when LEN is ESC, else LEN (R137). -/
def selectLength (cfg : Cfg) (f x : Word64) : Word64 :=
  if (fwLen cfg f).toNat == cfg.esc then x else zext64 (fwLen cfg f)

namespace Machine

/-- HDR_UNPACK (R134): the field word of OPA[31:0], STRUCT iff RSV != 0, EXT iff LEN == ESC. -/
def execHdrUnpack (s : State) : Result :=
  let h := unpackHeader s.cfg (opa32 s)
  .next (s.finish (fieldWord s.cfg h) (headerStatus h.rsvnz (h.ext s.cfg)))

/-- HDR_PACK (R136): the packed header and the extended-length flag; STRUCT iff the input RSV is not 0, EXT iff L >= ESC. -/
def execHdrPack (s : State) : Result :=
  .next (s.finish (packResult s.cfg (opa64 s) (opb64 s))
    (headerStatus (fwRsv (opa64 s) != 0) (needsExtended s.cfg (opb64 s))))

/-- HDR_LEN (R137): the payload length; EXT iff the escape applies. -/
def execHdrLen (s : State) : Result :=
  .next (s.finish (selectLength s.cfg (opa64 s) (opb64 s))
    (flagIf ((fwLen s.cfg (opa64 s)).toNat == s.cfg.esc) stExt))

end Machine

end Sys2Proof
end

