-- ==== Sys2Proof/Machine/Dispatch.lean ====
section
/-! DEFINITION. One arm per command: the command on the port, decoded, runs its meaning. -/

namespace Sys2Proof.Machine

def exec (i : Instr) (s : State) : Host.Outcome State Fault Refusal :=
  match i with
  | .nop => Sys2Proof.Machine.execNop s
  | .ident => Sys2Proof.Machine.execIdent s
  | .statRd => Sys2Proof.Machine.execStatRd s
  | .statClr => Sys2Proof.Machine.execStatClr s
  | .crcInit => Sys2Proof.Machine.execCrcInit s
  | .crcFeed n => Sys2Proof.Machine.execCrcFeed n s
  | .crcRead => Sys2Proof.Machine.execCrcRead s
  | .crcCheck => Sys2Proof.Machine.execCrcCheck s
  | .crcTab => Sys2Proof.Machine.execCrcTab s
  | .endProbe => Sys2Proof.Machine.execEndProbe s
  | .endSwap64 => Sys2Proof.Machine.execEndSwap64 s
  | .endHton64 => Sys2Proof.Machine.execEndHton64 s
  | .endNtoh64 => Sys2Proof.Machine.execEndNtoh64 s
  | .endHton32 => Sys2Proof.Machine.execEndHton32 s
  | .endNtoh32 => Sys2Proof.Machine.execEndNtoh32 s
  | .endHton16 => Sys2Proof.Machine.execEndHton16 s
  | .endNtoh16 => Sys2Proof.Machine.execEndNtoh16 s
  | .hdrUnpack => Sys2Proof.Machine.execHdrUnpack s
  | .hdrPack => Sys2Proof.Machine.execHdrPack s
  | .hdrLen => Sys2Proof.Machine.execHdrLen s

end Sys2Proof.Machine
end

