-- ==== Sys2Proof/Machine/Port.lean ====
section
/-! DEFINITION. The command port: how the next entry of the total order is served (20_memory.md R43, R44; 30_encoding.md R50;
70_reset_and_hazards.md R180, R181; 60_exceptions.md R173). -/

namespace Sys2Proof.Machine

/-- The command on the port runs: a legal word is the instruction it decodes to, every other word takes the illegal-command
outcome, whatever the operands and the state are (30_encoding.md R56, 60_exceptions.md R162). -/
def runCommand (s : State) : Result :=
  match decode s.port.cmd with
  | .ok i => exec i s
  | .error _ => .next s.raiseIll

/-- Agent `k`'s turn, `rest` being the order still to be served: its next command runs to completion; an agent with nothing to
issue lets its turn pass. -/
def agentTurn (k : Nat) (rest : List Turn) (s : State) : Result :=
  match s.nextOf k with
  | some t => runCommand (s.accept k t rest)
  | none => .next (s.withOrder rest).idle

/-- The next entry of the total order is served; with none left the block waits. -/
def serveTurn (s : State) : Result :=
  match s.order with
  | [] => .next s.idle
  | .agent k :: rest => agentTurn k rest s
  | .reset :: rest => .next (s.withOrder rest).applyReset
  | .resetDuring k :: rest => .next ((s.withOrder rest).cutCommand k).applyReset
  | .powerLoss :: rest => .next (s.withOrder rest).applyReset

end Sys2Proof.Machine
end

