-- ==== Sys2Proof/Machine/Step.lean ====
section
/-! DEFINITION. One step of the machine, and the placing of a command where the next step takes it. -/

namespace Sys2Proof.Machine

/-- One step: the port serves the next entry of its total order. -/
def step (s : State) : Host.Outcome State Fault Refusal := serveTurn s

/-- The command whose port image is the low `nbits` bits of `w` becomes the very next command served, issued by agent 0. -/
def State.withFetchWord (s : State) (nbits w : Nat) : State :=
  s.issueNext (transactionOfBits (w % 2 ^ nbits))

end Sys2Proof.Machine
end

