-- ==== Sys2Proof/Machine/Asm.lean ====
section
/-! DEFINITION. The assembler syntax, the pseudo-instructions and the disassembler (30_encoding.md R60 to R62). No step of the block
uses them: they are how a host writes its commands down. -/

namespace Sys2Proof.Machine

/-- One command with its operands, as a transaction on the port (R50). -/
def command (i : Instr) (a b : Word64) : Transaction where
  cmd := encode i
  opa := a
  opb := b

/-- `CRC_FEED n, a`: N = n, OPA = a, OPB = 0 (R60). -/
def feedCommand (n : Nat) (a : Word64) : Transaction := command (.crcFeed (BitVec.ofNat 4 n)) a 0

/-- `CRC_FEED "s"`: N = len(s), OPA = wv(bytes of s) (R60). -/
def feedBytes (bytes : List Byte) : Transaction := feedCommand bytes.length (BitVec.ofNat 64 (wireValue bytes))

/-- `CRC_RESET` expands to `CRC_INIT 0` (R61). -/
def crcResetCommands : List Transaction := [command .crcInit 0 0]

/-- `CRC_ZERO4` expands to `CRC_FEED 4, 0` (R61). -/
def crcZero4Commands : List Transaction := [feedCommand 4 0]

/-- `CRC_FIELD32 v` expands to `CRC_FEED 4, v` (R61). -/
def crcField32Commands (v : Word64) : List Transaction := [feedCommand 4 v]

/-- `CRC_FIELD64 v` expands to `CRC_FEED 8, v` (R61). -/
def crcField64Commands (v : Word64) : List Transaction := [feedCommand 8 v]

/-- `CRC_BYTES "s"`: one CRC_FEED 8 for each whole group of 8 bytes, then one CRC_FEED for the last L mod 8 bytes if there are
any (R61). -/
def crcBytesCommands (s : List Byte) : List Transaction :=
  (List.range (s.length / 8)).map (fun k => feedBytes ((s.drop (8 * k)).take 8)) ++
    if s.length % 8 = 0 then [] else [feedBytes (s.drop (8 * (s.length / 8)))]

/-- An operand of a line (R60). -/
inductive Operand where
  | num (n : Nat)
  | str (bytes : List Byte)
  deriving DecidableEq, Repr

/-- A line without its comment: a mnemonic and its operands. -/
structure AsmLine where
  mnemonic : String
  operands : List Operand
  deriving DecidableEq, Repr

/-- Why the assembler emits nothing for a line (R60; which name a line with several defects gets is the model's choice,
assumption log entry 13). -/
inductive AsmError where
  /-- The line does not follow the grammar. -/
  | badLine
  /-- The mnemonic is neither a command of R55 nor a pseudo-instruction of R61. -/
  | unknownMnemonic
  /-- The operands are not those the mnemonic takes. -/
  | badOperands
  /-- CRC_FEED's count or its string's length is not 1 to 8. -/
  | countOutOfRange
  /-- A number does not fit 64 bits. -/
  | numberTooBig
  deriving DecidableEq, Repr

/-- A number as an operand word; "a number that does not fit 64 bits" is rejected (R60). -/
def operandWord (n : Nat) : Except AsmError Word64 :=
  if n < 2 ^ 64 then .ok (BitVec.ofNat 64 n) else .error .numberTooBig

/-- A command that takes no operands: OPA = OPB = 0 (R60). -/
def asmNone (emit : List Transaction) (ops : List Operand) : Except AsmError (List Transaction) :=
  match ops with
  | [] => .ok emit
  | _ => .error .badOperands

/-- A command that takes one number: OPA = a, OPB = 0 (R60). -/
def asmOne (emit : Word64 → List Transaction) (ops : List Operand) : Except AsmError (List Transaction) :=
  match ops with
  | [.num a] => (operandWord a).map emit
  | _ => .error .badOperands

/-- A command that takes two numbers: OPA = a, OPB = b (R60). -/
def asmTwo (i : Instr) (ops : List Operand) : Except AsmError (List Transaction) :=
  match ops with
  | [.num a, .num b] => do
    let wa ← operandWord a
    let wb ← operandWord b
    pure [command i wa wb]
  | _ => .error .badOperands

/-- `CRC_FEED n, a` and `CRC_FEED "s"`; an out-of-range count is rejected (R60). -/
def asmFeed (ops : List Operand) : Except AsmError (List Transaction) :=
  match ops with
  | [.num n, .num a] => if 1 ≤ n ∧ n ≤ 8 then (operandWord a).map fun w => [feedCommand n w] else .error .countOutOfRange
  | [.str s] => if 1 ≤ s.length ∧ s.length ≤ 8 then .ok [feedBytes s] else .error .countOutOfRange
  | _ => .error .badOperands

/-- `CRC_BYTES "s"`, any length (R61). -/
def asmBytes (ops : List Operand) : Except AsmError (List Transaction) :=
  match ops with
  | [.str s] => .ok (crcBytesCommands s)
  | _ => .error .badOperands

/-- The commands a line stands for (R60, R61), its mnemonic in capitals. -/
def assemble (line : AsmLine) : Except AsmError (List Transaction) :=
  match line.mnemonic with
  | "NOP" => asmNone [command .nop 0 0] line.operands
  | "ID" => asmNone [command .ident 0 0] line.operands
  | "STAT_RD" => asmNone [command .statRd 0 0] line.operands
  | "STAT_CLR" => asmNone [command .statClr 0 0] line.operands
  | "CRC_INIT" => asmOne (fun a => [command .crcInit a 0]) line.operands
  | "CRC_FEED" => asmFeed line.operands
  | "CRC_READ" => asmNone [command .crcRead 0 0] line.operands
  | "CRC_CHECK" => asmOne (fun a => [command .crcCheck a 0]) line.operands
  | "CRC_TAB" => asmOne (fun a => [command .crcTab a 0]) line.operands
  | "END_PROBE" => asmNone [command .endProbe 0 0] line.operands
  | "END_SWAP64" => asmOne (fun a => [command .endSwap64 a 0]) line.operands
  | "END_HTON64" => asmOne (fun a => [command .endHton64 a 0]) line.operands
  | "END_NTOH64" => asmOne (fun a => [command .endNtoh64 a 0]) line.operands
  | "END_HTON32" => asmOne (fun a => [command .endHton32 a 0]) line.operands
  | "END_NTOH32" => asmOne (fun a => [command .endNtoh32 a 0]) line.operands
  | "END_HTON16" => asmOne (fun a => [command .endHton16 a 0]) line.operands
  | "END_NTOH16" => asmOne (fun a => [command .endNtoh16 a 0]) line.operands
  | "HDR_UNPACK" => asmOne (fun a => [command .hdrUnpack a 0]) line.operands
  | "HDR_PACK" => asmTwo .hdrPack line.operands
  | "HDR_LEN" => asmTwo .hdrLen line.operands
  | "CRC_RESET" => asmNone crcResetCommands line.operands
  | "CRC_ZERO4" => asmNone crcZero4Commands line.operands
  | "CRC_BYTES" => asmBytes line.operands
  | "CRC_FIELD32" => asmOne crcField32Commands line.operands
  | "CRC_FIELD64" => asmOne crcField64Commands line.operands
  | _ => .error .unknownMnemonic

/-- The tokens of a line. -/
inductive Token where
  | word (chars : List Char)
  | str (bytes : List Byte)
  | comma
  deriving DecidableEq, Repr

/-- Where the reader of a line stands: between tokens, inside a word, or inside a string (the characters read so far, last
first). -/
inductive LexMode where
  | between
  | inWord (chars : List Char)
  | inString (bytes : List Byte)
  deriving DecidableEq, Repr

/-- Blanks separate tokens (assumption log entry 13). -/
def isBlank (c : Char) : Bool := c == ' ' || c == '\t'

/-- The tokens of a line up to its comment (R60); a string holds ASCII characters other than the double quote. -/
def lexLine : LexMode → List Char → Except AsmError (List Token)
  | .between, [] => .ok []
  | .inWord w, [] => .ok [.word w.reverse]
  | .inString _, [] => .error .badLine
  | .between, c :: cs =>
    if c == ';' then .ok []
    else if isBlank c then lexLine .between cs
    else if c == ',' then (lexLine .between cs).map (.comma :: ·)
    else if c == '"' then lexLine (.inString []) cs
    else lexLine (.inWord [c]) cs
  | .inWord w, c :: cs =>
    if c == ';' then .ok [.word w.reverse]
    else if isBlank c then (lexLine .between cs).map (.word w.reverse :: ·)
    else if c == ',' then (lexLine .between cs).map fun ts => .word w.reverse :: .comma :: ts
    else if c == '"' then .error .badLine
    else lexLine (.inWord (c :: w)) cs
  | .inString b, c :: cs =>
    if c == '"' then (lexLine .between cs).map (.str b.reverse :: ·)
    else if c.toNat < 128 then lexLine (.inString (BitVec.ofNat 8 c.toNat :: b)) cs
    else .error .badLine

/-- The value of a digit in a base up to 16. -/
def digitValue (base : Nat) (c : Char) : Option Nat :=
  let d :=
    if '0' ≤ c ∧ c ≤ '9' then c.toNat - '0'.toNat
    else if 'a' ≤ c ∧ c ≤ 'f' then c.toNat - 'a'.toNat + 10
    else if 'A' ≤ c ∧ c ≤ 'F' then c.toNat - 'A'.toNat + 10
    else 16
  if d < base then some d else none

/-- The number a run of digits spells after the value read so far. -/
def digitsValue (base : Nat) : Nat → List Char → Option Nat
  | acc, [] => some acc
  | acc, c :: cs =>
    match digitValue base c with
    | some d => digitsValue base (acc * base + d) cs
    | none => none

/-- `number ::= decimal | "0x" hex` (R60). -/
def parseNumber : List Char → Option Nat
  | '0' :: 'x' :: c :: cs => digitsValue 16 0 (c :: cs)
  | c :: cs => digitsValue 10 0 (c :: cs)
  | [] => none

/-- `operand ::= number | string` (R60). -/
def parseOperand : Token → Except AsmError Operand
  | .word w =>
    match parseNumber w with
    | some n => .ok (.num n)
    | none => .error .badLine
  | .str b => .ok (.str b)
  | .comma => .error .badLine

/-- The operands after the first: `{"," operand}` (R60). -/
def parseMore : List Token → Except AsmError (List Operand)
  | [] => .ok []
  | .comma :: t :: rest => do
    let op ← parseOperand t
    let ops ← parseMore rest
    pure (op :: ops)
  | _ => .error .badLine

/-- `MNEMONIC [operand {"," operand}]`; the mnemonics of R55 are case-insensitive (R60). That the pseudo-instruction names of R61 are too is the
model's choice (DESIGN CHOICE, assumption log entry 13). -/
def parseTokens : List Token → Except AsmError AsmLine
  | [.word m] => .ok ⟨String.ofList (m.map Char.toUpper), []⟩
  | .word m :: t :: rest => do
    let op ← parseOperand t
    let ops ← parseMore rest
    pure ⟨String.ofList (m.map Char.toUpper), op :: ops⟩
  | _ => .error .badLine

/-- The commands a line of text stands for, or why it emits nothing (R60). -/
def assembleText (text : String) : Except AsmError (List Transaction) := do
  let tokens ← lexLine .between text.toList
  let line ← parseTokens tokens
  assemble line

/-- A hexadecimal digit. -/
def hexDigit (d : Nat) : Char :=
  if d < 10 then Char.ofNat ('0'.toNat + d) else Char.ofNat ('A'.toNat + (d - 10))

/-- The low `k` hexadecimal digits of a number. -/
def hexDigits : Nat → Nat → List Char
  | 0, _ => []
  | k + 1, n => hexDigit (n / 16 ^ k % 16) :: hexDigits k n

/-- A number in `k` hexadecimal digits, as text. -/
def hexText (k n : Nat) : String := String.ofList (hexDigits k n)

/-- A number below 2^64 in hexadecimal with no leading zero. -/
def shortHexText (n : Nat) : String :=
  match (hexDigits 16 n).dropWhile (· == '0') with
  | [] => "0"
  | d :: ds => String.ofList (d :: ds)

/-- A listing line `CMD OPA OPB` in hex (R60). -/
def listing (t : Transaction) : String :=
  hexText 8 t.cmd.toNat ++ " " ++ hexText 16 t.opa.toNat ++ " " ++ hexText 16 t.opb.toNat

/-- The operands a legal command reads, as the disassembler prints them (R62): N and OPA for CRC_FEED, OPA, OPA and OPB, or
none; an operand is printed whole (assumption log entry 14). -/
def operandsRead (i : Instr) (t : Transaction) : List Operand :=
  match i with
  | .nop => []
  | .ident => []
  | .statRd => []
  | .statClr => []
  | .crcInit => [.num t.opa.toNat]
  | .crcFeed n => [.num n.toNat, .num t.opa.toNat]
  | .crcRead => []
  | .crcCheck => [.num t.opa.toNat]
  | .crcTab => [.num t.opa.toNat]
  | .endProbe => []
  | .endSwap64 => [.num t.opa.toNat]
  | .endHton64 => [.num t.opa.toNat]
  | .endNtoh64 => [.num t.opa.toNat]
  | .endHton32 => [.num t.opa.toNat]
  | .endNtoh32 => [.num t.opa.toNat]
  | .endHton16 => [.num t.opa.toNat]
  | .endNtoh16 => [.num t.opa.toNat]
  | .hdrUnpack => [.num t.opa.toNat]
  | .hdrPack => [.num t.opa.toNat, .num t.opb.toNat]
  | .hdrLen => [.num t.opa.toNat, .num t.opb.toNat]

/-- The line a legal command is printed as. -/
def lineOf (i : Instr) (t : Transaction) : AsmLine := ⟨i.mnemonic, operandsRead i t⟩

/-- An operand in print: numbers in hex (assumption log entry 14). -/
def operandText : Operand → String
  | .num n => "0x" ++ shortHexText n
  | .str b => "\"" ++ String.ofList (b.map fun c => Char.ofNat c.toNat) ++ "\""

/-- A line in print. -/
def lineText (line : AsmLine) : String :=
  match line.operands with
  | [] => line.mnemonic
  | op :: ops => line.mnemonic ++ " " ++ operandText op ++ String.join (ops.map fun o => ", " ++ operandText o)

/-- The disassembler, total on all words: a legal word as its mnemonic with the operands it reads, an illegal word as
`.word 0x<8 hex digits>` (R62). -/
def disassemble (t : Transaction) : String :=
  match decode t.cmd with
  | .ok i => lineText (lineOf i t)
  | .error _ => ".word 0x" ++ hexText 8 t.cmd.toNat

end Sys2Proof.Machine
end

