-- ==== Sys2Proof/Machine/Frame.lean ====
section
/-! DEFINITION. The host's usage rule for frames (00_scope.md R4): the check image, the frame CRC and the command sequence that checks
a frame (42_crc.md R112 to R116). No step of the block uses them; the frame decoder itself is out of scope (00_scope.md R5). -/

namespace Sys2Proof.Machine

/-- The fields of a frame that the check needs (R112), as numbers; `payload` is the payload as transmitted (R114). -/
structure Frame where
  /-- The wire value of the 4 header bytes. -/
  hw : Word32
  /-- The extended length field, present iff the inline length holds ESC. -/
  length : Word64
  messageId : Word32
  /-- Present iff RSP. -/
  responseToId : Word32
  /-- Present iff MASK. -/
  maskKey : Word32
  /-- The wire value of the frame's 4 CRC bytes (R115). -/
  crc : Word32
  payload : List Byte
  deriving DecidableEq, Repr

/-- The check image of a frame (R112). -/
def checkImage (cfg : Cfg) (f : Frame) : List Byte :=
  let h := unpackHeader cfg f.hw
  [f.hw.extractLsb 31 24, f.hw.extractLsb 23 16] ++
  (if h.ext cfg then wireBytes 8 f.length else []) ++
  wireBytes 4 f.messageId ++
  (if h.rsp then wireBytes 4 f.responseToId else []) ++
  (if h.mask then wireBytes 4 f.maskKey else []) ++
  [0x00, 0x00, 0x00, 0x00] ++
  f.payload

/-- The frame CRC: `calculate(0, image(F))` (R113). -/
def frameCrc (cfg : Cfg) (f : Frame) : Word32 := calculate 0 (checkImage cfg f)

/-- A received frame passes iff its CRC bytes spell the frame CRC (R115). -/
def framePasses (cfg : Cfg) (f : Frame) : Bool := frameCrc cfg f == f.crc

/-- The CRC bytes a sender puts in the frame: `wb_4(calculate(0, image(F)))` (R115). -/
def frameCrcBytes (cfg : Cfg) (f : Frame) : List Byte := wireBytes 4 (frameCrc cfg f)

/-- The command sequence for the check (R116). -/
def checkSequence (cfg : Cfg) (f : Frame) : List Transaction :=
  let h := unpackHeader cfg f.hw
  crcResetCommands ++
  [feedCommand 2 (zext64 (f.hw.extractLsb 31 16))] ++
  (if h.ext cfg then crcField64Commands f.length else []) ++
  crcField32Commands (zext64 f.messageId) ++
  (if h.rsp then crcField32Commands (zext64 f.responseToId) else []) ++
  (if h.mask then crcField32Commands (zext64 f.maskKey) else []) ++
  crcZero4Commands ++
  crcBytesCommands f.payload ++
  [command .crcCheck (zext64 f.crc) 0]

/-- The host may deliver a frame only if HDR_UNPACK reported no STRUCT and the final CRC_CHECK returned RES = 1
(70_reset_and_hazards.md R186, 60_exceptions.md R163, R164). -/
def hostMayDeliver (unpackReply checkReply : Reply) : Bool :=
  unpackReply.st &&& stStruct == 0 && checkReply.res == 1

end Sys2Proof.Machine
end

