-- ==== Sys2Proof/Safety.lean ====
section
/-! DEFINITION. The terms claims about SFCB use: legality of a command word (30_encoding.md R56), the outcome of an illegal word
(60_exceptions.md R162), the operand bits a command reads (20_memory.md R42), the invariant of the port's outputs, and the effect of a total order of
commands on CRC (20_memory.md R44). Nothing here is used by the machine. -/

namespace Sys2Proof.Safety

open Sys2Proof.Machine

/-- The OP values of the opcode map (R55, R56). -/
def listedOps : List (BitVec 8) :=
  [0x00, 0x01, 0x02, 0x03, 0x10, 0x11, 0x12, 0x13, 0x14, 0x20, 0x21, 0x22, 0x23, 0x24, 0x25, 0x26, 0x27, 0x30, 0x31, 0x32]

/-- `legal(CMD)`, the three conditions of R56. -/
def legal (w : Word32) : Bool :=
  w.extractLsb 31 12 == 0 && listedOps.contains (w.extractLsb 7 0) &&
    (if w.extractLsb 7 0 == 0x11 then decide (1 ≤ (w.extractLsb 11 8).toNat ∧ (w.extractLsb 11 8).toNat ≤ 8)
     else w.extractLsb 11 8 == 0)

/-- The 27 legal words: 19 single words and the 8 CRC_FEED words (R56). -/
def legalWords : List Word32 :=
  [0x00000000, 0x00000001, 0x00000002, 0x00000003, 0x00000010, 0x00000012, 0x00000013, 0x00000014,
   0x00000020, 0x00000021, 0x00000022, 0x00000023, 0x00000024, 0x00000025, 0x00000026, 0x00000027,
   0x00000030, 0x00000031, 0x00000032,
   0x00000111, 0x00000211, 0x00000311, 0x00000411, 0x00000511, 0x00000611, 0x00000711, 0x00000811]

/-- Issued by any agent in any state, with any operands, the word `w` gets RES = 0 and ST = 0x01, sets STICKY.ILL, and has no
other effect: CRC is unchanged and nothing but the port's own bookkeeping moves (R162). -/
def IllegalOutcome (w : Word32) : Prop :=
  ∀ (s : State) (k : Nat) (rest : List Turn) (t : Transaction),
    s.order = .agent k :: rest → s.nextOf k = some t → t.cmd = w →
    step s = .next { s with
      sticky := s.sticky ||| 0b001, reply := some { agent := k, res := 0, st := 0x01 },
      port := t, issuer := k, agents := issued s.agents k, order := rest }

/-- `w` is the one legal word with its OP and stands for `i`: every other word with that OP takes the illegal-command outcome. -/
def SoleWord (w : Word32) (i : Instr) : Prop :=
  decode w = .ok i ∧ ∀ v : Word32, v.extractLsb 7 0 = w.extractLsb 7 0 → v ≠ w → IllegalOutcome v

/-- State `s` with other operands on the port. -/
def withOperands (s : State) (a b : Word64) : State := { s with port := { s.port with opa := a, opb := b } }

/-- RES of command `i` run in `s` on the operands `a` and `b`. -/
def resOf (i : Instr) (s : State) (a b : Word64) : Word64 :=
  match exec i (withOperands s a b) with
  | .next t => (t.reply.map Reply.res).getD 0
  | .fault _ => 0
  | .refused _ => 0

/-- ST of command `i` run in `s` on the operands `a` and `b`. -/
def stOf (i : Instr) (s : State) (a b : Word64) : Byte :=
  match exec i (withOperands s a b) with
  | .next t => (t.reply.map Reply.st).getD 0
  | .fault _ => 0
  | .refused _ => 0

/-- The mask of a value's low `n` bits. -/
def lowBits (n : Nat) : Word64 := BitVec.ofNat 64 (2 ^ n - 1)

/-- The bits of OPA a command reads, R42's second column (an ill-formed CRC_FEED reads none). -/
def readsA (cfg : Cfg) : Instr → Word64
  | .nop => 0
  | .ident => 0
  | .statRd => 0
  | .statClr => 0
  | .crcInit => lowBits 32
  | .crcFeed n => if 1 ≤ n.toNat ∧ n.toNat ≤ 8 then lowBits (8 * n.toNat) else 0
  | .crcRead => 0
  | .crcCheck => lowBits 32
  | .crcTab => lowBits 8
  | .endProbe => 0
  | .endSwap64 => lowBits 64
  | .endHton64 => lowBits 64
  | .endNtoh64 => lowBits 64
  | .endHton32 => lowBits 32
  | .endNtoh32 => lowBits 32
  | .endHton16 => lowBits 16
  | .endNtoh16 => lowBits 16
  | .hdrUnpack => lowBits 32
  | .hdrPack => 0xFFFF0000
  | .hdrLen => lowBits cfg.lengthWidth

/-- The bits of OPB a command reads, R42's third column. -/
def readsB : Instr → Word64
  | .hdrPack => lowBits 64
  | .hdrLen => lowBits 64
  | .nop => 0
  | .ident => 0
  | .statRd => 0
  | .statClr => 0
  | .crcInit => 0
  | .crcFeed _ => 0
  | .crcRead => 0
  | .crcCheck => 0
  | .crcTab => 0
  | .endProbe => 0
  | .endSwap64 => 0
  | .endHton64 => 0
  | .endNtoh64 => 0
  | .endHton32 => 0
  | .endNtoh32 => 0
  | .endHton16 => 0
  | .endNtoh16 => 0
  | .hdrUnpack => 0

/-- The bits of RES a command may set, R42's last column; for the commands of R42's first row it is what their own rules give. -/
def writesRes : Instr → Word64
  | .nop => 0
  | .ident => lowBits 64
  | .statRd => lowBits 3
  | .statClr => lowBits 3
  | .crcInit => lowBits 32
  | .crcFeed _ => lowBits 32
  | .crcRead => lowBits 32
  | .crcCheck => lowBits 1
  | .crcTab => lowBits 32
  | .endProbe => lowBits 1
  | .endSwap64 => lowBits 64
  | .endHton64 => lowBits 64
  | .endNtoh64 => lowBits 64
  | .endHton32 => lowBits 32
  | .endNtoh32 => lowBits 32
  | .endHton16 => lowBits 16
  | .endNtoh16 => lowBits 16
  | .hdrUnpack => lowBits 42
  | .hdrPack => lowBits 33
  | .hdrLen => lowBits 64

/-- The ST values a command can return (60_exceptions.md R166). -/
def statuses : List Byte := [0x00, 0x01, 0x02, 0x04, 0x08, 0x0A]

/-- What holds of the port's outputs after every step: ST is one of the six values, an illegal word's RES is 0, the reply went to the
agent that issued the command, and each error it reports stands in STICKY. -/
structure RepliesSound (s : State) : Prop where
  status : ∀ r, s.reply = some r → r.st ∈ statuses
  illegalResult : ∀ r, s.reply = some r → r.st.getLsbD 0 = true → r.res = 0
  toIssuer : ∀ r, s.reply = some r → r.agent = s.issuer
  errorsKept : ∀ r, s.reply = some r → s.sticky &&& r.st.extractLsb 2 0 = r.st.extractLsb 2 0

/-- A word that writes CRC: CRC_INIT, or CRC_FEED with N in 1 to 8 (10_state.md R24). -/
def writesCrc (w : Word32) : Bool :=
  w == 0x00000010 || (w.extractLsb 7 0 == 0x11 && legal w)

/-- What one command makes of CRC (R24, 42_crc.md R105, R106). -/
def crcEffect (t : Transaction) (c : Word32) : Word32 :=
  if t.cmd = 0x00000010 then t.opa.extractLsb 31 0
  else if writesCrc t.cmd then calculate c (wireBytes (t.cmd.extractLsb 11 8).toNat t.opa)
  else c

/-- CRC after a total order of turns over the agents' commands, from `c`: each command in turn has its full effect, and every reset
gives 0 (20_memory.md R44, R45; 70_reset_and_hazards.md R181). -/
def crcAfter : List Turn → List (List Transaction) → Word32 → Word32
  | [], _, c => c
  | .agent k :: rest, agents, c =>
    match agents[k]? with
    | some (t :: _) => crcAfter rest (issued agents k) (crcEffect t c)
    | some [] => crcAfter rest agents c
    | none => crcAfter rest agents c
  | .reset :: rest, agents, _ => crcAfter rest agents 0
  | .resetDuring k :: rest, agents, _ => crcAfter rest (issued agents k) 0
  | .powerLoss :: rest, agents, _ => crcAfter rest agents 0

/-- `s` with only agent `k`'s turns of its order. -/
def onlyAgent (k : Nat) (s : State) : State := { s with order := s.order.filter (· == .agent k) }

/-- `s` with one agent, the commands `cs`, and a turn for each of them. -/
def running (cs : List Transaction) (s : State) : State :=
  { s with agents := [cs], order := List.replicate cs.length (.agent 0) }

/-- A header's five RSV bits are all 0 (43_header.md R132, R135). -/
def reservedBitsClear (cfg : Cfg) (hw : Word32) : Bool :=
  match cfg.flagOrder with
  | .msbFirst => hw.extractLsb 28 24 == 0
  | .lsbFirst => hw.extractLsb 31 27 == 0

end Sys2Proof.Safety
end

