-- ==== Sys2Proof/Certificates/Slice0/Obligations.lean ====
section
/-! DEFINITION. The statements for the provers, each citing the rule of spec/ it formalises. The block has no memory (20_memory.md R35),
so a frame is said of every field of State: a next state written `{ s with … }` leaves every field not named as it was. -/

open Sys2Proof Sys2Proof.Machine Sys2Proof.Safety

/-! ## Reset, the port, and the encoding -/

/-- R31: what reset leaves. This hardware's HDR_REV and FLAG_ORDER are 00_scope.md R7 and R8; HOST_BE stays open. -/
def Obligations.ResetGivesTheStatedValues : Prop :=
  (State.reset.crc = 0x00000000 ∧ State.reset.sticky = 0b000 ∧
    State.reset.cfg = { hostBe := Config.hostBe, hdrRev := .len16, flagOrder := .msbFirst }) ∧
  (∀ (s : State) (rest : List Turn), s.order = .reset :: rest → ∃ t, step s = .next t ∧
    t.crc = 0x00000000 ∧ t.sticky = 0b000 ∧ t.cfg = s.cfg)

/-- R181: a command ordered before the reset has its full effect and then the reset applies; a command ordered after it sees the reset
state; a command cut short has no effect and returns no result. -/
def Obligations.ResetInTheCommandOrder : Prop :=
  (∀ (s : State) (k : Nat) (rest : List Turn) (c : Transaction) (i : Instr),
    s.order = .agent k :: .reset :: rest → s.nextOf k = some c → decode c.cmd = .ok i →
    ∃ t u, step s = .next t ∧ exec i (s.accept k c (.reset :: rest)) = .next t ∧ step t = .next u ∧
      u.crc = 0 ∧ u.sticky = 0 ∧ u.order = rest) ∧
  (∀ (s : State) (k : Nat) (rest : List Turn) (c : Transaction) (i : Instr),
    s.order = .reset :: .agent k :: rest → s.nextOf k = some c → decode c.cmd = .ok i →
    ∃ t, step s = .next t ∧ t.crc = 0 ∧ t.sticky = 0 ∧ t.cfg = s.cfg ∧ step t = exec i (t.accept k c rest)) ∧
  (∀ (s : State) (k : Nat) (rest : List Turn), s.order = .resetDuring k :: rest →
    ∃ t, step s = .next t ∧ t.crc = 0 ∧ t.sticky = 0 ∧ t.reply = none ∧ t.cfg = s.cfg ∧ t.order = rest)

/-- 70_reset_and_hazards.md section 1 and 10_state.md section 7 (the spec's own inferences in R180 and R31): CRC_INIT 0 and then STAT_CLR
leave CRC and STICKY as reset does, and reset's CRC is the CRC of no byte. And 60_exceptions.md section 5 (R173): power loss is treated as reset. -/
def Obligations.SoftwareResetAndPowerLoss : Prop :=
  (∀ s : State, s.port.opa.extractLsb 31 0 = 0 → ∃ t u, exec .crcInit s = .next t ∧ exec .statClr t = .next u ∧
    u.crc = State.reset.crc ∧ u.sticky = State.reset.sticky ∧ u.cfg = s.cfg) ∧
  State.reset.crc = calculate 0 [] ∧
  (∀ (s : State) (rest : List Turn), s.order = .powerLoss :: rest →
    step s = step { s with order := .reset :: rest })

/-- The step runs the decoded instruction: the command an agent hands to the port is the command executed (20_memory.md section 5),
in a state that differs from `s` only in the port's inputs and the host's own queues (assumption log entry 1). The same for a
command placed by withFetchWord. -/
def Obligations.StepRunsTheCommandOnThePort : Prop :=
  (∀ (s : State) (k : Nat) (rest : List Turn) (c : Transaction) (i : Instr),
    s.order = .agent k :: rest → s.nextOf k = some c → decode c.cmd = .ok i →
    step s = exec i { s with port := c, issuer := k, agents := issued s.agents k, order := rest }) ∧
  (∀ (s : State) (nbits w : Nat) (i : Instr), decodeTableWord nbits w = some i →
    ∃ u : State, step (s.withFetchWord nbits w) = exec i u ∧ u.crc = s.crc ∧ u.sticky = s.sticky ∧ u.cfg = s.cfg ∧
      u.port = transactionOfBits (w % 2 ^ nbits) ∧ u.issuer = 0 ∧ u.order = s.order ∧
      (s.agents ≠ [] → u.agents = s.agents))

/-- R162 with R56: every word that is not legal takes the illegal-command outcome, whatever OPA, OPB and the state are. -/
def Obligations.IllegalWordsHaveNoOtherEffect : Prop :=
  ∀ w : Word32, legal w = false → IllegalOutcome w

/-- R56: a word is an instruction iff it is legal, whatever the operands, the state and the configuration are; every other word takes the
illegal-command outcome; and the legal words are 27, 19 single words and 8 CRC_FEED words. -/
def Obligations.DecodedIffLegal : Prop :=
  (∀ w : Word32, (∃ i, decode w = .ok i) ↔
    (w.extractLsb 31 12 = 0 ∧ w.extractLsb 7 0 ∈ listedOps ∧
      (if w.extractLsb 7 0 = 0x11 then 1 ≤ (w.extractLsb 11 8).toNat ∧ (w.extractLsb 11 8).toNat ≤ 8
       else w.extractLsb 11 8 = 0))) ∧
  (∀ w : Word32, (¬ ∃ i, decode w = .ok i) → IllegalOutcome w) ∧
  legalWords.length = 27 ∧ legalWords.Nodup ∧ (∀ w : Word32, (∃ i, decode w = .ok i) ↔ w ∈ legalWords)

/-- R54 and R57: every reserved word is rejected by name and takes the illegal-command outcome. -/
def Obligations.ReservedWordsAreIllegal : Prop :=
  ∀ w : Word32,
    (w.extractLsb 31 12 ≠ 0 ∨ w.extractLsb 7 0 ∉ listedOps ∨
      (w.extractLsb 7 0 ≠ 0x11 ∧ w.extractLsb 11 8 ≠ 0) ∨
      (w.extractLsb 7 0 = 0x11 ∧ ((w.extractLsb 11 8).toNat = 0 ∨ 9 ≤ (w.extractLsb 11 8).toNat))) →
    (∃ e, decode w = .error e) ∧ IllegalOutcome w

/-- A few words of 30_encoding.md R55 and 95_test_vectors.md section 2.5 decode to the command they stand for. -/
def Obligations.WordsOfTheOpcodeMapDecode : Prop :=
  decode 0x00000003 = .ok .statClr ∧ decode 0x00000811 = .ok (.crcFeed 8) ∧ decode 0x00000027 = .ok .endNtoh16 ∧
  decode 0x00000032 = .ok .hdrLen ∧ decode 0x00000911 = .error (.badCount 9) ∧ decode 0x80000012 = .error .reservedBits ∧
  decode 0x00000033 = .error (.reservedOp 0x33)

/-- Every well-formed command at every byte count is what its word decodes to (R51, R53, R55), and its word is the only one that decodes
to it. -/
def Obligations.DecodeEncodeRoundTrip : Prop :=
  (∀ i : Instr, i.wf = true → decode (encode i) = .ok i) ∧
  (∀ (w : Word32) (i : Instr), decode w = .ok i → encode i = w ∧ i.wf = true)

/-- The opcode table (R55): a word that decodes to a command matches exactly that command's row, and a word that matches no row, or
CRC_FEED's with N outside 1 to 8, is no command. -/
def Obligations.OpcodeTableRowsAreDisjoint : Prop :=
  (∀ w : Word32, (rowsMatching w).length ≤ 1) ∧
  (∀ (w : Word32) (i : Instr), decode w = .ok i → (rowsMatching w).map OpcodeRow.mnemonic = [i.mnemonic]) ∧
  (∀ (w : Word32) (e : DecodeError), decode w = .error e →
    rowsMatching w = [] ∨ (w.extractLsb 7 0 = 0x11 ∧ ¬ (1 ≤ (w.extractLsb 11 8).toNat ∧ (w.extractLsb 11 8).toNat ≤ 8)))

/-! ## Control commands -/

/-- R70. -/
def Obligations.NopDoesNothing : Prop :=
  SoleWord 0x00000000 .nop ∧
  ∀ s : State, exec .nop s = .next { s with reply := some { agent := s.issuer, res := 0, st := 0x00 } }

/-- R71. -/
def Obligations.IdReadsIdentityAndConfiguration : Prop :=
  SoleWord 0x00000001 .ident ∧
  (∃ r : Cfg → Word64,
    (∀ s : State, exec .ident s = .next { s with reply := some { agent := s.issuer, res := r s.cfg, st := 0x00 } }) ∧
    (∀ cfg : Cfg, (r cfg).extractLsb 63 32 = 0x53464342 ∧ (r cfg).extractLsb 31 11 = 0 ∧
      (r cfg).getLsbD 10 = (cfg.flagOrder == .lsbFirst) ∧ (r cfg).getLsbD 9 = (cfg.hdrRev == .len16) ∧
      (r cfg).getLsbD 8 = cfg.hostBe ∧ (r cfg).extractLsb 7 0 = 0x01)) ∧
  (∀ s t : State, step s = .next t → t.cfg = s.cfg)

/-- R72. -/
def Obligations.StatRdReadsSticky : Prop :=
  SoleWord 0x00000002 .statRd ∧
  ∀ s : State, exec .statRd s =
    .next { s with reply := some { agent := s.issuer, res := s.sticky.setWidth 64, st := 0x00 } }

/-- R73, with its corner case: no other command clears a STICKY bit, and reset does. -/
def Obligations.StatClrAloneClearsSticky : Prop :=
  SoleWord 0x00000003 .statClr ∧
  (∀ s : State, exec .statClr s =
    .next { s with sticky := 0b000, reply := some { agent := s.issuer, res := s.sticky.setWidth 64, st := 0x00 } }) ∧
  (∀ (i : Instr) (s t : State), exec i s = .next t → i ≠ .statClr → s.sticky &&& t.sticky = s.sticky) ∧
  (∀ (s : State) (rest : List Turn), s.order = .reset :: rest → ∃ t, step s = .next t ∧ t.sticky = 0b000)

/-! ## CRC unit -/

/-- R105. -/
def Obligations.CrcInitLoadsTheSeed : Prop :=
  SoleWord 0x00000010 .crcInit ∧
  ∀ s : State, exec .crcInit s = .next { s with
    crc := s.port.opa.extractLsb 31 0,
    reply := some { agent := s.issuer, res := (s.port.opa.extractLsb 31 0).setWidth 64, st := 0x00 } }

/-- 42_crc.md section 2 (R106): the N bytes of OPA[8N-1:0], the most significant first, go through `calculate`; RES is the new value; a word
with N = 0 or N > 8 takes the illegal-command outcome; feeding 0x00 is no no-op, and the split into commands does not matter. That the
instruction with such an N, which no legal word carries, takes the outcome too is the model's reading (assumption log entry 11). -/
def Obligations.CrcFeedFeedsItsBytes : Prop :=
  (∀ n : BitVec 4, 1 ≤ n.toNat → n.toNat ≤ 8 → decode ((0 : BitVec 20) ++ n ++ (0x11 : BitVec 8)) = .ok (.crcFeed n)) ∧
  (∀ w : Word32, w.extractLsb 7 0 = 0x11 →
    w.extractLsb 31 12 ≠ 0 ∨ (w.extractLsb 11 8).toNat = 0 ∨ 8 < (w.extractLsb 11 8).toNat → IllegalOutcome w) ∧
  (∀ (s : State) (n : BitVec 4), 1 ≤ n.toNat → n.toNat ≤ 8 →
    ∃ c : Word32,
      c = calculate s.crc ((List.range n.toNat).map fun k => s.port.opa.extractLsb' (8 * (n.toNat - 1 - k)) 8) ∧
      exec (.crcFeed n) s = .next { s with
        crc := c, reply := some { agent := s.issuer, res := c.setWidth 64, st := 0x00 } }) ∧
  (∀ (s : State) (n : BitVec 4), n.toNat = 0 ∨ 8 < n.toNat →
    exec (.crcFeed n) s = .next { s with
      sticky := s.sticky ||| 0b001, reply := some { agent := s.issuer, res := 0, st := 0x01 } }) ∧
  calculate 0 [0x00] = 0xD202EF8D ∧
  (∀ (c : Word32) (a b : List Byte), calculate (calculate c a) b = calculate c (a ++ b))

/-- R107. -/
def Obligations.CrcReadReadsTheAccumulator : Prop :=
  SoleWord 0x00000012 .crcRead ∧
  (∀ s : State, exec .crcRead s =
    .next { s with reply := some { agent := s.issuer, res := s.crc.setWidth 64, st := 0x00 } }) ∧
  resOf .crcRead State.reset 0 0 = 0

/-- R108: an exact comparison of all 32 bits, and comparing with the value CRC_READ returned always matches. -/
def Obligations.CrcCheckComparesExactly : Prop :=
  SoleWord 0x00000013 .crcCheck ∧
  (∀ s : State, s.crc = s.port.opa.extractLsb 31 0 → exec .crcCheck s =
    .next { s with reply := some { agent := s.issuer, res := 1, st := 0x00 } }) ∧
  (∀ s : State, s.crc ≠ s.port.opa.extractLsb 31 0 → exec .crcCheck s =
    .next { s with sticky := s.sticky ||| 0b100, reply := some { agent := s.issuer, res := 0, st := 0x04 } }) ∧
  (∀ (s : State) (b : Word64), resOf .crcCheck s (resOf .crcRead s 0 0) b = 1)

/-- R109: the table entry at OPA[7:0], each entry being R101's eight shifts. -/
def Obligations.CrcTabReadsTheTable : Prop :=
  SoleWord 0x00000014 .crcTab ∧
  ∃ rom : Byte → Word32,
    (∀ s : State, exec .crcTab s = .next { s with
      reply := some { agent := s.issuer, res := (rom (s.port.opa.extractLsb 7 0)).setWidth 64, st := 0x00 } }) ∧
    (∀ i : Byte, rom i = (List.range 8).foldl
      (fun c _ => if c.getLsbD 0 then 0xEDB88320 ^^^ (c >>> 1) else c >>> 1) (i.setWidth 32))

/-- 42_crc.md section 1 (R102, R103): the byte step looks the table up at the low byte of c xor b, and `calculate` complements on the way in
and out. That `calculate` on no byte is the seed is the spec's own inference in R103. -/
def Obligations.CalculateIsTheTableDrivenCrc : Prop :=
  (∀ (c : Word32) (b : Byte), crcStep c b = crcTable (((c ^^^ b.setWidth 32) &&& 0xFF).setWidth 8) ^^^ (c >>> 8)) ∧
  (∀ (seed : Word32) (bytes : List Byte),
    calculate seed bytes = ~~~ (bytes.foldl crcStep (~~~ seed))) ∧
  (∀ seed : Word32, calculate seed [] = seed)

/-- 42_crc.md section 3 (the spec's own inference in R110): the table-driven step is eight bitwise shifts of c xor b. -/
def Obligations.TableStepIsTheBitwiseStep : Prop :=
  ∀ (c : Word32) (b : Byte), crcStep c b = crcStepBitwise c b

/-- 42_crc.md section 3 (R111) and section 5: the spec's check values of `calculate`, and the first and last rows of its table. -/
def Obligations.CheckValuesOfTheCrc : Prop :=
  calculate 0 [0x31, 0x32, 0x33, 0x34, 0x35, 0x36, 0x37, 0x38, 0x39] = 0xCBF43926 ∧
  calculate 0 [0xFF] = 0xFF000000 ∧ calculate 0 [0, 0, 0, 0] = 0x2144DF1C ∧
  calculate 0 [0xFF, 0xFF, 0xFF, 0xFF] = 0xFFFFFFFF ∧
  [0x00, 0x01, 0x02, 0x03, 0x04, 0x05, 0x06, 0x07].map crcTable =
    [0x00000000, 0x77073096, 0xEE0E612C, 0x990951BA, 0x076DC419, 0x706AF48F, 0xE963A535, 0x9E6495A3] ∧
  [0xF8, 0xF9, 0xFA, 0xFB, 0xFC, 0xFD, 0xFE, 0xFF].map crcTable =
    [0xB3667A2E, 0xC4614AB8, 0x5D681B02, 0x2A6F2B94, 0xB40BBE37, 0xC30C8EA1, 0x5A05DF1B, 0x2D02EF8D]

/-- 42_crc.md section 1 (from `calculate` and its step): changing one byte of a sequence always changes its CRC. The single-bit flips among
these changes are 95_test_vectors.md section 1 L1-2, as corrected by 90_conflicts.md C6 (general knowledge in the spec). -/
def Obligations.CrcDetectsEveryChangedByte : Prop :=
  ∀ (seed : Word32) (before after : List Byte) (b b' : Byte), b ≠ b' →
    calculate seed (before ++ b :: after) ≠ calculate seed (before ++ b' :: after)

/-! ## Endian unit -/

/-- 00_scope.md section 5 (R15, R14): byte k of bswap_n is byte n-1-k, at all three widths; wv is the big-endian sum, byte k of wb_n(v) is
v's byte n-1-k, and the two are inverse to each other. That reversing twice is the identity is the spec's own inference in R15. -/
def Obligations.ByteReversalAndWireBytes : Prop :=
  (∀ (v : BitVec 16) (k : Nat), k < 2 → (bswap16 v).extractLsb' (8 * k) 8 = v.extractLsb' (8 * (1 - k)) 8) ∧
  (∀ (v : Word32) (k : Nat), k < 4 → (bswap32 v).extractLsb' (8 * k) 8 = v.extractLsb' (8 * (3 - k)) 8) ∧
  (∀ (v : Word64) (k : Nat), k < 8 → (bswap64 v).extractLsb' (8 * k) 8 = v.extractLsb' (8 * (7 - k)) 8) ∧
  (∀ v : BitVec 16, bswap16 (bswap16 v) = v) ∧ (∀ v : Word32, bswap32 (bswap32 v) = v) ∧
  (∀ v : Word64, bswap64 (bswap64 v) = v) ∧
  (∀ bytes : List Byte, wireValue bytes =
    ((List.range bytes.length).map fun k => (bytes.getD k 0).toNat * 256 ^ (bytes.length - 1 - k)).sum) ∧
  (∀ (v : Word64) (n k : Nat), k < n → (wireBytes n v)[k]? = some (v.extractLsb' (8 * (n - 1 - k)) 8)) ∧
  (∀ (v : Word64) (n : Nat), n ≤ 8 → v.toNat < 256 ^ n → wireValue (wireBytes n v) = v.toNat) ∧
  (∀ bytes : List Byte, bytes.length ≤ 8 → wireBytes bytes.length (BitVec.ofNat 64 (wireValue bytes)) = bytes)

/-- R81. -/
def Obligations.EndProbeReadsHostOrder : Prop :=
  SoleWord 0x00000020 .endProbe ∧
  ∀ s : State, exec .endProbe s = .next { s with
    reply := some { agent := s.issuer, res := if s.cfg.hostBe then 1 else 0, st := 0x00 } }

/-- 41_endian.md (R82): the 8 bytes are reversed whatever HOST_BE is. That twice gives the operand back is the spec's own inference in R82,
from R15. -/
def Obligations.EndSwap64ReversesTheBytes : Prop :=
  SoleWord 0x00000021 .endSwap64 ∧
  (∃ r : Word64 → Word64,
    (∀ s : State, exec .endSwap64 s = .next { s with
      reply := some { agent := s.issuer, res := r s.port.opa, st := 0x00 } }) ∧
    (∀ (x : Word64) (k : Nat), k < 8 → (r x).extractLsb' (8 * k) 8 = x.extractLsb' (8 * (7 - k)) 8) ∧
    (∀ x : Word64, r (r x) = x))

/-- R83. -/
def Obligations.EndHton64Converts : Prop :=
  SoleWord 0x00000022 .endHton64 ∧
  ∀ s : State, exec .endHton64 s = .next { s with
    reply := some { agent := s.issuer, res := if s.cfg.hostBe then s.port.opa else bswap64 s.port.opa, st := 0x00 } }

/-- R84. -/
def Obligations.EndNtoh64Converts : Prop :=
  SoleWord 0x00000023 .endNtoh64 ∧
  ∀ s : State, exec .endNtoh64 s = .next { s with
    reply := some { agent := s.issuer, res := if s.cfg.hostBe then s.port.opa else bswap64 s.port.opa, st := 0x00 } }

/-- R85. -/
def Obligations.EndHton32Converts : Prop :=
  SoleWord 0x00000024 .endHton32 ∧
  ∀ s : State, exec .endHton32 s = .next { s with
    reply := some { agent := s.issuer, res := (if s.cfg.hostBe then s.port.opa.extractLsb 31 0
      else bswap32 (s.port.opa.extractLsb 31 0)).setWidth 64, st := 0x00 } }

/-- R86. -/
def Obligations.EndNtoh32Converts : Prop :=
  SoleWord 0x00000025 .endNtoh32 ∧
  ∀ s : State, exec .endNtoh32 s = .next { s with
    reply := some { agent := s.issuer, res := (if s.cfg.hostBe then s.port.opa.extractLsb 31 0
      else bswap32 (s.port.opa.extractLsb 31 0)).setWidth 64, st := 0x00 } }

/-- R87. -/
def Obligations.EndHton16Converts : Prop :=
  SoleWord 0x00000026 .endHton16 ∧
  ∀ s : State, exec .endHton16 s = .next { s with
    reply := some { agent := s.issuer, res := (if s.cfg.hostBe then s.port.opa.extractLsb 15 0
      else bswap16 (s.port.opa.extractLsb 15 0)).setWidth 64, st := 0x00 } }

/-- R88. -/
def Obligations.EndNtoh16Converts : Prop :=
  SoleWord 0x00000027 .endNtoh16 ∧
  ∀ s : State, exec .endNtoh16 s = .next { s with
    reply := some { agent := s.issuer, res := (if s.cfg.hostBe then s.port.opa.extractLsb 15 0
      else bswap16 (s.port.opa.extractLsb 15 0)).setWidth 64, st := 0x00 } }

/-- 41_endian.md section "Laws of the endian unit" (the spec's own inference in R89): to network order and back is the identity, at
each width and for either host. -/
def Obligations.NetworkOrderRoundTrips : Prop :=
  (∀ (s : State) (x b b' : Word64), resOf .endNtoh64 s (resOf .endHton64 s x b) b' = x) ∧
  (∀ (s : State) (x b b' : Word64), x.toNat < 2 ^ 32 → resOf .endNtoh32 s (resOf .endHton32 s x b) b' = x) ∧
  (∀ (s : State) (x b b' : Word64), x.toNat < 2 ^ 16 → resOf .endNtoh16 s (resOf .endHton16 s x b) b' = x)

/-- 41_endian.md (R90) and 20_memory.md section 2 (R40), both the spec's own inference: storing END_HTON64(v) as a native integer puts v's wire
bytes in memory on either host; loading 8 wire bytes natively and applying END_NTOH64 gives their wire value. -/
def Obligations.NativeStoreOfHton64GivesWireBytes : Prop :=
  (∀ (s : State) (v b : Word64), nativeStore64 s.cfg.hostBe (resOf .endHton64 s v b) = wireBytes 8 v) ∧
  (∀ (s : State) (bytes : List Byte) (b : Word64), bytes.length = 8 →
    (resOf .endNtoh64 s (nativeLoad64 s.cfg.hostBe bytes) b).toNat = wireValue bytes) ∧
  (∀ (s : State) (v b : Word64),
    (nativeStore64 s.cfg.hostBe (resOf .endHton64 s v b)).take 4 = wireBytes 4 (v.extractLsb 63 32))

/-! ## Header unit -/

/-- R134, R135: every field of the field word from the header's wire value under each configuration; STRUCT iff RSV is not 0 and EXT iff LEN
is ESC, neither suppressing RES. -/
def Obligations.HdrUnpackGivesTheFieldWord : Prop :=
  SoleWord 0x00000030 .hdrUnpack ∧
  ∀ s : State, ∃ (r : Word64) (rsv : BitVec 5) (len : BitVec 16),
    (rsv = match s.cfg.flagOrder with
      | .msbFirst => s.port.opa.extractLsb 28 24
      | .lsbFirst => s.port.opa.extractLsb 31 27) ∧
    (len = match s.cfg.hdrRev with
      | .len16 => s.port.opa.extractLsb 15 0
      | .len8 => (s.port.opa.extractLsb 15 8).setWidth 16) ∧
    exec .hdrUnpack s = .next { s with
      sticky := s.sticky ||| (if rsv ≠ 0 then 0b010 else 0b000),
      reply := some {
        agent := s.issuer, res := r,
        st := (if rsv ≠ 0 then 0x02 else 0x00) ||| (if len.toNat = s.cfg.esc then 0x08 else 0x00) } } ∧
    r.extractLsb 15 0 = len ∧ r.extractLsb 23 16 = s.port.opa.extractLsb 23 16 ∧ r.extractLsb 28 24 = rsv ∧
    (r.getLsbD 31, r.getLsbD 30, r.getLsbD 29) = (match s.cfg.flagOrder with
      | .msbFirst => (s.port.opa.getLsbD 31, s.port.opa.getLsbD 30, s.port.opa.getLsbD 29)
      | .lsbFirst => (s.port.opa.getLsbD 24, s.port.opa.getLsbD 25, s.port.opa.getLsbD 26)) ∧
    (r.extractLsb 39 32 = match s.cfg.hdrRev with
      | .len16 => 0
      | .len8 => s.port.opa.extractLsb 7 0) ∧
    r.getLsbD 40 = decide (len.toNat = s.cfg.esc) ∧ r.getLsbD 41 = decide (rsv ≠ 0) ∧ r.extractLsb 63 42 = 0

/-- R136: the packed header under each configuration, RSV and PAD written as 0; EXT iff L >= ESC, STRUCT iff the input RSV is not 0. -/
def Obligations.HdrPackPacksTheHeader : Prop :=
  SoleWord 0x00000031 .hdrPack ∧
  ∀ s : State, ∃ (r : Word64) (ext : Bool) (lf : Nat),
    ext = decide (s.cfg.esc ≤ s.port.opb.toNat) ∧ lf = (if ext then s.cfg.esc else s.port.opb.toNat) ∧
    exec .hdrPack s = .next { s with
      sticky := s.sticky ||| (if s.port.opa.extractLsb 28 24 ≠ 0 then 0b010 else 0b000),
      reply := some {
        agent := s.issuer, res := r,
        st := (if s.port.opa.extractLsb 28 24 ≠ 0 then 0x02 else 0x00) ||| (if ext then 0x08 else 0x00) } } ∧
    (match s.cfg.flagOrder with
      | .msbFirst => r.getLsbD 31 = s.port.opa.getLsbD 31 ∧ r.getLsbD 30 = s.port.opa.getLsbD 30 ∧
          r.getLsbD 29 = s.port.opa.getLsbD 29 ∧ r.extractLsb 28 24 = 0
      | .lsbFirst => r.getLsbD 24 = s.port.opa.getLsbD 31 ∧ r.getLsbD 25 = s.port.opa.getLsbD 30 ∧
          r.getLsbD 26 = s.port.opa.getLsbD 29 ∧ r.extractLsb 31 27 = 0) ∧
    r.extractLsb 23 16 = s.port.opa.extractLsb 23 16 ∧
    (match s.cfg.hdrRev with
      | .len16 => (r.extractLsb 15 0).toNat = lf
      | .len8 => (r.extractLsb 15 8).toNat = lf ∧ r.extractLsb 7 0 = 0) ∧
    r.getLsbD 32 = ext ∧ r.extractLsb 63 33 = 0

/-- R137: the inline length, or the extended length when LEN is ESC, whatever that length is (R140: none is flagged). -/
def Obligations.HdrLenSelectsTheLength : Prop :=
  SoleWord 0x00000032 .hdrLen ∧
  ∀ s : State, ∃ len : Nat,
    (len = match s.cfg.hdrRev with
      | .len16 => (s.port.opa.extractLsb 15 0).toNat
      | .len8 => (s.port.opa.extractLsb 7 0).toNat) ∧
    exec .hdrLen s = .next { s with
      reply := some {
        agent := s.issuer,
        res := if len = s.cfg.esc then s.port.opb else BitVec.ofNat 64 len,
        st := if len = s.cfg.esc then 0x08 else 0x00 } }

/-- R9: the inline length width and the escape sentinel under each revision. -/
def Obligations.EscapeSentinelIsAllOnes : Prop :=
  ∀ cfg : Cfg, cfg.esc = 2 ^ cfg.lengthWidth - 1 ∧ cfg.maxInline = cfg.esc - 1 ∧
    (match cfg.hdrRev with
      | .len8 => cfg.lengthWidth = 8 ∧ cfg.esc = 255 ∧ cfg.maxInline = 254
      | .len16 => cfg.lengthWidth = 16 ∧ cfg.esc = 65535 ∧ cfg.maxInline = 65534)

/-- 43_header.md section 3 (the spec's own inference in R139, items 1 and 3): packing a field word with RSV = 0 and unpacking the header gives
its fields back, with the escape exactly past MAX_INLINE, and HDR_LEN finds the length. -/
def Obligations.PackUnpackRoundTrip : Prop :=
  ∀ (s : State) (f l b : Word64), f.extractLsb 28 24 = 0 →
    ∃ p u : Word64, p = resOf .hdrPack s f l ∧ u = resOf .hdrUnpack s ((p.extractLsb 31 0).setWidth 64) b ∧
      u.getLsbD 31 = f.getLsbD 31 ∧ u.getLsbD 30 = f.getLsbD 30 ∧ u.getLsbD 29 = f.getLsbD 29 ∧
      u.extractLsb 23 16 = f.extractLsb 23 16 ∧ u.extractLsb 28 24 = 0 ∧ u.extractLsb 39 32 = 0 ∧
      u.getLsbD 40 = p.getLsbD 32 ∧ p.getLsbD 32 = decide (s.cfg.maxInline < l.toNat) ∧
      resOf .hdrLen s u l = l

/-- 43_header.md section 3 (the spec's own inference in R139, item 2) and section 1 (R133): unpacking a header with RSV = 0, PAD = 0 under
LEN8 and an inline length, and packing the fields, gives the header back; under this hardware's configuration FW[31:0] is the header. -/
def Obligations.UnpackPackRoundTrip : Prop :=
  (∀ (s : State) (hw : Word32) (b : Word64), reservedBitsClear s.cfg hw = true →
    (s.cfg.hdrRev = .len8 → hw.extractLsb 7 0 = 0) →
    ∃ u : Word64, u = resOf .hdrUnpack s (hw.setWidth 64) b ∧
      ((u.extractLsb 15 0).toNat ≤ s.cfg.maxInline →
        (resOf .hdrPack s u ((u.extractLsb 15 0).setWidth 64)).extractLsb 31 0 = hw)) ∧
  (∀ (s : State) (a b : Word64), s.cfg.hdrRev = .len16 → s.cfg.flagOrder = .msbFirst →
    (resOf .hdrUnpack s a b).extractLsb 31 0 = a.extractLsb 31 0)

/-- R138: the opcode field is carried through unchanged by HDR_UNPACK and HDR_PACK, and no value of it changes any other output. -/
def Obligations.FrameOpcodeIsCarriedThrough : Prop :=
  ∀ (s : State) (hi : BitVec 40) (lo : BitVec 16) (o o' : Byte) (b : Word64) (i : Instr), i = .hdrUnpack ∨ i = .hdrPack →
    (resOf i s (hi ++ o ++ lo) b).extractLsb 23 16 = o ∧
    (resOf i s (hi ++ o ++ lo) b).extractLsb 63 24 = (resOf i s (hi ++ o' ++ lo) b).extractLsb 63 24 ∧
    (resOf i s (hi ++ o ++ lo) b).extractLsb 15 0 = (resOf i s (hi ++ o' ++ lo) b).extractLsb 15 0 ∧
    stOf i s (hi ++ o ++ lo) b = stOf i s (hi ++ o' ++ lo) b

/-! ## Whole-machine rules -/

/-- R187: every step gives a next state, no command stalls, and every command, legal or not, returns RES and ST to the agent that issued it
(R161). -/
def Obligations.EveryCommandCompletes : Prop :=
  (∀ s : State, ∃ t, step s = .next t) ∧ (∀ (i : Instr) (s : State), ∃ t, exec i s = .next t) ∧
  (∀ (s : State) (k : Nat) (rest : List Turn) (c : Transaction), s.order = .agent k :: rest → s.nextOf k = some c →
    ∃ t res st, step s = .next t ∧ t.reply = some { agent := k, res := res, st := st })

/-- 10_state.md sections 3 and 5 (R24, R26 to R28), 70_reset_and_hazards.md section 1 (R180, R181): CRC is written only by CRC_INIT and CRC_FEED,
never by an illegal word, and read only by CRC_FEED, CRC_READ and CRC_CHECK. And of whole steps: a step that changes CRC or STICKY served a
reset, a cut command or a power loss, which leave both 0, or a command, CRC then by CRC_INIT or CRC_FEED only, and STICKY by its one source of
each bit or by STAT_CLR. So a step with nothing left to serve and a turn that passes leave both as they were: that such steps exist,
and change nothing, is the model's choice (assumption log entries 1, 2). -/
def Obligations.CrcIsWrittenAndReadOnlyByItsUnit : Prop :=
  (∀ (i : Instr) (s t : State), exec i s = .next t → t.crc ≠ s.crc → i = .crcInit ∨ ∃ n, i = .crcFeed n) ∧
  (∀ (s t : State) (k : Nat) (rest : List Turn) (c : Transaction), s.order = .agent k :: rest → s.nextOf k = some c →
    legal c.cmd = false → step s = .next t → t.crc = s.crc) ∧
  (∀ (i : Instr) (s t : State) (v : Word32), (∀ n, i ≠ .crcFeed n) → i ≠ .crcRead → i ≠ .crcCheck →
    exec i s = .next t →
    exec i { s with crc := v } = .next { t with crc := if i = .crcInit then t.crc else v }) ∧
  (∀ s t : State, step s = .next t → t.crc ≠ s.crc ∨ t.sticky ≠ s.sticky →
    ((∃ rest, s.order = .reset :: rest ∨ s.order = .powerLoss :: rest ∨ ∃ k, s.order = .resetDuring k :: rest) ∧
      t.crc = 0 ∧ t.sticky = 0) ∨
    (∃ k rest c, s.order = .agent k :: rest ∧ s.nextOf k = some c ∧
      (t.crc ≠ s.crc → decode c.cmd = .ok .crcInit ∨ ∃ n, decode c.cmd = .ok (.crcFeed n)) ∧
      (t.sticky ≠ s.sticky →
        (legal c.cmd = false ∧ t.sticky = s.sticky ||| 0b001) ∨
        ((decode c.cmd = .ok .hdrUnpack ∨ decode c.cmd = .ok .hdrPack) ∧ t.sticky = s.sticky ||| 0b010) ∨
        (decode c.cmd = .ok .crcCheck ∧ t.sticky = s.sticky ||| 0b100) ∨
        (decode c.cmd = .ok .statClr ∧ t.sticky = 0))))

/-- R28: every command but STAT_CLR, illegal words among them, ORs the error bits of the ST it returns into STICKY, so EXT is never sticky;
STAT_CLR clears it; STAT_RD returns the value before it. That STAT_RD leaves STICKY, which R28 infers, is R72's: its word, its RES and ST, and
nothing else changed. -/
def Obligations.StickyAccumulatesErrors : Prop :=
  (∀ (i : Instr) (s : State), i ≠ .statClr → ∃ t r, exec i s = .next t ∧ t.reply = some r ∧
    t.sticky = s.sticky ||| r.st.extractLsb 2 0) ∧
  (∀ (s : State) (k : Nat) (rest : List Turn) (c : Transaction), s.order = .agent k :: rest → s.nextOf k = some c →
    decode c.cmd ≠ .ok .statClr →
    ∃ t r, step s = .next t ∧ t.reply = some r ∧ t.sticky = s.sticky ||| r.st.extractLsb 2 0) ∧
  (∀ s : State, ∃ t, exec .statClr s = .next t ∧ t.sticky = 0) ∧
  SoleWord 0x00000002 .statRd ∧
  (∀ s : State, exec .statRd s =
    .next { s with reply := some { agent := s.issuer, res := s.sticky.setWidth 64, st := 0x00 } })

/-- 10_state.md section 5 (R26) and 60_exceptions.md section 2 (the spec's own inference in R166): which command can set which status bit,
and the six values ST can take; bits 7:4 are always 0. -/
def Obligations.StatusBitsAndTheirSources : Prop :=
  ∀ (s t : State) (r : Reply), step s = .next t → t.reply = some r →
    r.st ∈ statuses ∧
    (r.st.getLsbD 0 = true → legal t.port.cmd = false ∧ r.st = 0x01) ∧
    (r.st.getLsbD 1 = true → decode t.port.cmd = .ok .hdrUnpack ∨ decode t.port.cmd = .ok .hdrPack) ∧
    (r.st.getLsbD 2 = true → decode t.port.cmd = .ok .crcCheck) ∧
    (r.st.getLsbD 3 = true → decode t.port.cmd = .ok .hdrUnpack ∨ decode t.port.cmd = .ok .hdrPack ∨
      decode t.port.cmd = .ok .hdrLen) ∧
    (legal t.port.cmd = false → r.st = 0x01)

/-- R29: no command and no reset changes the configuration; ID reads all of it back and END_PROBE reads HOST_BE. -/
def Obligations.ConfigurationIsConstant : Prop :=
  (∀ s t : State, step s = .next t → t.cfg = s.cfg) ∧ (∀ (i : Instr) (s t : State), exec i s = .next t → t.cfg = s.cfg) ∧
  (∀ (s : State) (a b : Word64), (resOf .ident s a b).getLsbD 10 = (s.cfg.flagOrder == .lsbFirst) ∧
    (resOf .ident s a b).getLsbD 9 = (s.cfg.hdrRev == .len16) ∧ (resOf .ident s a b).getLsbD 8 = s.cfg.hostBe ∧
    resOf .endProbe s a b = if s.cfg.hostBe then 1 else 0)

/-- R161: each command's status goes to its issuer and into STICKY; no earlier error changes what a later command does: with any other
STICKY, every command but the two that read it gives the same CRC, RES and ST, and STICKY keeps the earlier errors; an illegal word has
the same outcome in every state. -/
def Obligations.EarlierErrorsChangeNoLaterCommand : Prop :=
  (∀ w : Word32, legal w = false → IllegalOutcome w) ∧
  ∀ (i : Instr) (s : State) (k : BitVec 3), i ≠ .statRd → i ≠ .statClr →
    ∃ t res st, exec i s = .next t ∧ t.reply = some { agent := s.issuer, res := res, st := st } ∧
      t.sticky = s.sticky ||| st.extractLsb 2 0 ∧
      exec i { s with sticky := k } = .next { t with sticky := k ||| st.extractLsb 2 0 }

/-- The invariant of the port's outputs, kept by every step from every state that has it: ST is one of the six values, an illegal
word's RES is 0, the reply goes to the issuer, and every error reported stands in STICKY (10_state.md R28, 60_exceptions.md R161, R162, R166). -/
def Obligations.EveryStepKeepsRepliesSound : Prop :=
  ∀ s t : State, RepliesSound s → step s = .next t → RepliesSound t

/-- The invariant holds at reset. It does because State.reset holds no reply, which is the model's choice (assumption log entry 3), and STICKY
is 0 there (10_state.md section 7, R31). -/
def Obligations.ResetHasRepliesSound : Prop := RepliesSound State.reset

/-- R42: operand bits a command does not read never change its outcome, and RES is zero above the width it writes. -/
def Obligations.OnlyTheListedOperandBitsMatter : Prop :=
  ∀ (i : Instr) (s : State) (p : Transaction),
    p.opa &&& readsA s.cfg i = s.port.opa &&& readsA s.cfg i → p.opb &&& readsB i = s.port.opb &&& readsB i →
    ∃ t r, exec i s = .next t ∧ exec i { s with port := p } = .next { t with port := p } ∧
      t.reply = some r ∧ r.res &&& ~~~ writesRes i = 0

/-- 20_memory.md section 2 (R39), with the ID readback of 40_control.md R71 (assumption log entry 7): no command but END_PROBE, the six conversions and ID
depends on HOST_BE. -/
def Obligations.HostOrderMattersOnlyToConversions : Prop :=
  ∀ (i : Instr) (s t : State) (b : Bool),
    i ∉ [Instr.ident, .endProbe, .endHton64, .endNtoh64, .endHton32, .endNtoh32, .endHton16, .endNtoh16] →
    exec i s = .next t →
    exec i { s with cfg := { s.cfg with hostBe := b } } = .next { t with cfg := { s.cfg with hostBe := b } }

/-- R30: each command produces RES and ST for its issuer, and no later command can read an earlier one's. -/
def Obligations.OutputsDoNotPersist : Prop :=
  (∀ (i : Instr) (s : State), ∃ t res st, exec i s = .next t ∧ t.reply = some { agent := s.issuer, res := res, st := st }) ∧
  (∀ (i : Instr) (s : State) (r : Option Reply), exec i { s with reply := r } = exec i s) ∧
  (∀ (s : State) (r : Option Reply), step { s with reply := r } = step s)

/-- 20_memory.md section 3 (R43): a command that leaves the state unchanged, or changes only STICKY, may be repeated: the second run gives the
same outputs and the same state. -/
def Obligations.RepeatedCommandsAreIdempotent : Prop :=
  ∀ (i : Instr) (s t : State),
    i ∈ [Instr.nop, .ident, .statRd, .crcRead, .crcCheck, .crcTab, .endProbe, .endSwap64, .endHton64, .endNtoh64, .endHton32,
      .endNtoh32, .endHton16, .endNtoh16, .hdrUnpack, .hdrPack, .hdrLen] →
    exec i s = .next t → exec i t = .next t ∧ t.crc = s.crc

/-! ## Agents, total order, and command sequences -/

/-- 20_memory.md section 4 (R44): an agent's turn issues exactly the first of its waiting commands; the order of its others, every other agent's
commands and the rest of the total order stay as they are. The queues are the model's own (assumption log entry 1). -/
def Obligations.EachAgentKeepsItsOrder : Prop :=
  ∀ (s t : State) (k : Nat) (rest : List Turn) (c : Transaction) (cs : List Transaction),
    s.order = .agent k :: rest → s.agents[k]? = some (c :: cs) → step s = .next t →
    t.port = c ∧ t.issuer = k ∧ t.order = rest ∧ t.agents[k]? = some cs ∧ t.agents.length = s.agents.length ∧
      ∀ j, j ≠ k → t.agents[j]? = s.agents[j]?

/-- 20_memory.md section 4 (R44, R45) with 70_reset_and_hazards.md R181: served to its end, any total order of commands and resets, from any
state, leaves CRC at the value the commands' own effects give in that order: CRC_INIT the seed, CRC_FEED `calculate`, a reset 0. The queues, the order
and that an empty turn passes are the model's own (assumption log entries 1, 2), and so are that resets leave the waiting commands and that a
cut command is gone from its queue (entry 8). -/
def Obligations.CrcFollowsTheTotalOrder : Prop :=
  ∀ s : State, ∃ t : State, Host.Core.run Sys2Proof.core s.order.length s = .next t ∧
    t.crc = crcAfter s.order s.agents s.crc ∧ t.order = [] ∧ t.cfg = s.cfg

/-- 70_reset_and_hazards.md section 3 (R184): if in an interleaving no other agent issues CRC_INIT or CRC_FEED and no reset falls, CRC ends as
if agent k had had the block to itself. The queues and turns are the model's own (assumption log entry 1). -/
def Obligations.ExclusiveCrcOwnershipSuffices : Prop :=
  ∀ (s : State) (k : Nat), (∀ u ∈ s.order, ∃ j, u = .agent j) →
    (∀ (j : Nat) (q : List Transaction), j ≠ k → s.agents[j]? = some q → ∀ c ∈ q, writesCrc c.cmd = false) →
    ∃ t t₀ : State, Host.Core.run Sys2Proof.core s.order.length s = .next t ∧
      Host.Core.run Sys2Proof.core (onlyAgent k s).order.length (onlyAgent k s) = .next t₀ ∧ t.crc = t₀.crc

/-- 42_crc.md section 1 (the spec's own inference in R104) and 30_encoding.md section 5 (R61): the commands of CRC_BYTES for any byte string,
issued from any state, leave CRC at `calculate(CRC, s)` and STICKY as it was. The queue they are issued from is the model's own (assumption
log entry 1). -/
def Obligations.CrcBytesComputesCalculate : Prop :=
  ∀ (s : State) (bytes : List Byte), ∃ t : State,
    Host.Core.run Sys2Proof.core (crcBytesCommands bytes).length (running (crcBytesCommands bytes) s) = .next t ∧
    t.crc = calculate s.crc bytes ∧ t.sticky = s.sticky ∧ t.order = []

/-- 42_crc.md section 4 (the spec's own inference in R116, over R112 to R115): for every frame, state and configuration, the check sequence leaves
the frame CRC in CRC, and its CRC_CHECK returns RES = 1 and ST = 0 if the frame passes and RES = 0 and ST = 0x04 if not; with
HDR_UNPACK's reply for the header, the host may deliver exactly a frame whose RSV is 0 and which passes (70_reset_and_hazards.md
section 3, R186). What a frame is, that its flags are read from its header word and its payload taken as given, is assumption log entry
15's, and the queue is entry 1's. -/
def Obligations.FrameCheckSequenceDecides : Prop :=
  ∀ (s : State) (f : Frame), ∃ t : State,
    Host.Core.run Sys2Proof.core (checkSequence s.cfg f).length (running (checkSequence s.cfg f) s) = .next t ∧
    t.crc = frameCrc s.cfg f ∧
    t.reply = some (if framePasses s.cfg f then { agent := 0, res := 1, st := 0x00 }
      else { agent := 0, res := 0, st := 0x04 }) ∧
    ∃ (v : State) (u : Reply), exec .hdrUnpack (withOperands s (f.hw.setWidth 64) 0) = .next v ∧ v.reply = some u ∧
      (t.reply.map fun r => hostMayDeliver u r) = some (reservedBitsClear s.cfg f.hw && framePasses s.cfg f)

/-! ## Assembler and disassembler -/

/-- 30_encoding.md section 5 (R60, R61): where each line's operands land: none, one number on OPA, two on OPA and OPB, CRC_FEED's count in N
and its number or string on OPA; what does not fit is rejected; and what the pseudo-instructions expand to, CRC_BYTES command by
command: a CRC_FEED 8 for each whole group of 8 bytes, then one CRC_FEED for the last L mod 8 bytes if there are any, so none for L = 0. How a
line of text is read is assumption log entry 13's. -/
def Obligations.AssemblerPlacesOperands : Prop :=
  (∀ i : Instr, i ∈ [Instr.nop, .ident, .statRd, .statClr, .crcRead, .endProbe] →
    assemble ⟨i.mnemonic, []⟩ = .ok [{ cmd := encode i, opa := 0, opb := 0 }]) ∧
  (∀ (i : Instr) (a : Nat), i ∈ [Instr.crcInit, .crcCheck, .crcTab, .endSwap64, .endHton64, .endNtoh64, .endHton32, .endNtoh32,
      .endHton16, .endNtoh16, .hdrUnpack] →
    (a < 2 ^ 64 → assemble ⟨i.mnemonic, [.num a]⟩ = .ok [{ cmd := encode i, opa := BitVec.ofNat 64 a, opb := 0 }]) ∧
    (2 ^ 64 ≤ a → ∃ e, assemble ⟨i.mnemonic, [.num a]⟩ = .error e)) ∧
  (∀ (i : Instr) (a b : Nat), i ∈ [Instr.hdrPack, .hdrLen] →
    (a < 2 ^ 64 → b < 2 ^ 64 → assemble ⟨i.mnemonic, [.num a, .num b]⟩ =
      .ok [{ cmd := encode i, opa := BitVec.ofNat 64 a, opb := BitVec.ofNat 64 b }]) ∧
    (2 ^ 64 ≤ a ∨ 2 ^ 64 ≤ b → ∃ e, assemble ⟨i.mnemonic, [.num a, .num b]⟩ = .error e)) ∧
  (∀ n a : Nat, (1 ≤ n → n ≤ 8 → a < 2 ^ 64 → ∃ w : Word32, assemble ⟨"CRC_FEED", [.num n, .num a]⟩ =
      .ok [{ cmd := w, opa := BitVec.ofNat 64 a, opb := 0 }] ∧ decode w = .ok (.crcFeed (BitVec.ofNat 4 n))) ∧
    (n = 0 ∨ 8 < n ∨ 2 ^ 64 ≤ a → ∃ e, assemble ⟨"CRC_FEED", [.num n, .num a]⟩ = .error e)) ∧
  (∀ bytes : List Byte, (1 ≤ bytes.length → bytes.length ≤ 8 → ∃ w : Word32, assemble ⟨"CRC_FEED", [.str bytes]⟩ =
      .ok [{ cmd := w, opa := BitVec.ofNat 64 (wireValue bytes), opb := 0 }] ∧
        decode w = .ok (.crcFeed (BitVec.ofNat 4 bytes.length))) ∧
    (bytes.length = 0 ∨ 8 < bytes.length → ∃ e, assemble ⟨"CRC_FEED", [.str bytes]⟩ = .error e)) ∧
  assemble ⟨"CRC_RESET", []⟩ = assemble ⟨"CRC_INIT", [.num 0]⟩ ∧
  assemble ⟨"CRC_ZERO4", []⟩ = assemble ⟨"CRC_FEED", [.num 4, .num 0]⟩ ∧
  (∀ v : Nat, assemble ⟨"CRC_FIELD32", [.num v]⟩ = assemble ⟨"CRC_FEED", [.num 4, .num v]⟩ ∧
    assemble ⟨"CRC_FIELD64", [.num v]⟩ = assemble ⟨"CRC_FEED", [.num 8, .num v]⟩) ∧
  (∀ bytes : List Byte, ∃ cs : List Transaction, assemble ⟨"CRC_BYTES", [.str bytes]⟩ = .ok cs ∧
    cs.length = bytes.length / 8 + (if bytes.length % 8 = 0 then 0 else 1) ∧
    (∀ k : Nat, k < bytes.length / 8 → cs[k]? = some {
      cmd := 0x00000811, opa := BitVec.ofNat 64 (wireValue ((List.range 8).map fun j => bytes.getD (8 * k + j) 0)), opb := 0 }) ∧
    (bytes.length % 8 ≠ 0 → cs[bytes.length / 8]? = some {
      cmd := (0 : BitVec 20) ++ BitVec.ofNat 4 (bytes.length % 8) ++ (0x11 : BitVec 8),
      opa := BitVec.ofNat 64 (wireValue (bytes.drop (bytes.length - bytes.length % 8))), opb := 0 }))

/-- 30_encoding.md section 5 (R62): an illegal word prints as .word with 8 hex digits, and a legal word prints as the line of its mnemonic and
the operands it reads, which assembles back to that word with those operands, as a line and as the text printed. How a number is printed is the
model's choice (assumption log entry 14), and so is what R60's grammar leaves open of the reading (entry 13). -/
def Obligations.DisassemblyAssemblesBack : Prop :=
  (∀ t : Transaction, legal t.cmd = false → disassemble t = ".word 0x" ++ hexText 8 t.cmd.toNat) ∧
  (∀ (t : Transaction) (i : Instr), decode t.cmd = .ok i → disassemble t = lineText (lineOf i t) ∧
    assemble (lineOf i t) = .ok [{
      cmd := t.cmd, opa := if readsA Config.thisBlock i = 0 then 0 else t.opa,
      opb := if readsB i = 0 then 0 else t.opb }] ∧
    assembleText (disassemble t) = .ok [{
      cmd := t.cmd, opa := if readsA Config.thisBlock i = 0 then 0 else t.opa,
      opb := if readsB i = 0 then 0 else t.opb }])
end

