-- ==== Sys2Proof/Laws/Asm.lean ====
section
/-! SUPPORT. The text reader and the number printer (30_encoding.md R60, R62): what the reader makes of one word, and that it reads every number
the disassembler prints. -/

namespace Sys2Proof.Machine

/-- A character that ends no word: no comment mark, blank, comma or double quote. -/
def isWordChar (c : Char) : Bool := c != ';' && !isBlank c && c != ',' && c != '"'

/-- Inside a word, the reader takes word characters into the word. -/
theorem lexLine_inWord_append (w cs rest : List Char) (h : ∀ c ∈ cs, isWordChar c = true) :
    lexLine (.inWord w) (cs ++ rest) = lexLine (.inWord (cs.reverse ++ w)) rest := by
  induction cs generalizing w with
  | nil => rfl
  | cons c cs ih =>
    obtain ⟨hc, hcs⟩ := List.forall_mem_cons.mp h
    simp only [isWordChar, Bool.and_eq_true, bne_iff_ne, Bool.not_eq_true'] at hc
    simp [lexLine, hc, ih _ hcs]

/-- Between tokens, a word character begins a word, which then takes all word characters that follow. -/
theorem lexLine_word_append (c : Char) (cs rest : List Char) (h : ∀ d ∈ c :: cs, isWordChar d = true) :
    lexLine .between (c :: cs ++ rest) = lexLine (.inWord (c :: cs).reverse) rest := by
  obtain ⟨hc, hcs⟩ := List.forall_mem_cons.mp h
  simp only [isWordChar, Bool.and_eq_true, bne_iff_ne, Bool.not_eq_true'] at hc
  simp [lexLine, hc, lexLine_inWord_append _ _ _ hcs]

/-- A blank ends a word. -/
theorem lexLine_inWord_space (w cs : List Char) :
    lexLine (.inWord w) (' ' :: cs) = (lexLine .between cs).map (.word w.reverse :: ·) := by
  simp [lexLine, isBlank]

/-- A comma ends a word and is a token. -/
theorem lexLine_inWord_comma (w cs : List Char) :
    lexLine (.inWord w) (',' :: cs) = (lexLine .between cs).map fun ts => .word w.reverse :: .comma :: ts := by
  simp [lexLine, isBlank]

/-- A blank between tokens is skipped. -/
theorem lexLine_between_space (cs : List Char) : lexLine .between (' ' :: cs) = lexLine .between cs := by
  simp [lexLine, isBlank]

/-- A hexadecimal digit has its value, and is a word character. -/
theorem hexDigit_spec : ∀ d : Fin 16, digitValue 16 (hexDigit d) = some d.val ∧ isWordChar (hexDigit d) = true := by decide

theorem hexDigits_wordChar (k n : Nat) : ∀ c ∈ hexDigits k n, isWordChar c = true := by
  induction k with
  | zero => simp [hexDigits]
  | succ k ih =>
    intro c hc
    obtain rfl | hc := List.mem_cons.mp hc
    · exact (hexDigit_spec ⟨_, Nat.mod_lt _ (by omega)⟩).2
    · exact ih c hc

/-- Reading `k` printed digits gives the number they were printed from, up to 16^k. -/
theorem digitsValue_hexDigits (k n acc : Nat) :
    digitsValue 16 acc (hexDigits k n) = some (acc * 16 ^ k + n % 16 ^ k) := by
  induction k generalizing acc with
  | zero => simp [hexDigits, digitsValue, Nat.mod_one]
  | succ k ih =>
    have hd := (hexDigit_spec ⟨n / 16 ^ k % 16, Nat.mod_lt _ (by omega)⟩).1
    simp only [hexDigits, digitsValue, hd, ih]
    rw [Nat.mod_pow_succ, Nat.pow_succ]
    congr 1
    ring

/-- Leading zeros do not change a number. -/
theorem digitsValue_dropZeros (ds : List Char) :
    digitsValue 16 0 (ds.dropWhile (· == '0')) = digitsValue 16 0 ds := by
  induction ds with
  | nil => rfl
  | cons c cs ih =>
    by_cases h : c = '0'
    · subst h; simpa [digitsValue, show digitValue 16 '0' = some 0 by decide] using ih
    · rw [List.dropWhile_cons_of_neg (by simpa using h)]

/-- A number below 2^64 in print, without its `0x`: not empty, word characters only, and it reads back as the number. -/
theorem shortHexText_spec (n : Nat) (h : n < 2 ^ 64) :
    ∃ d ds, (shortHexText n).toList = d :: ds ∧ (∀ c ∈ d :: ds, isWordChar c = true) ∧
      digitsValue 16 0 (d :: ds) = some n := by
  have hv : digitsValue 16 0 ((hexDigits 16 n).dropWhile (· == '0')) = some n := by
    rw [digitsValue_dropZeros, digitsValue_hexDigits, Nat.zero_mul, Nat.zero_add, Nat.mod_eq_of_lt (by omega)]
  have hm : ∀ c ∈ (hexDigits 16 n).dropWhile (· == '0'), isWordChar c = true :=
    fun c hc => hexDigits_wordChar 16 n c ((List.dropWhile_sublist _).subset hc)
  unfold shortHexText
  split
  · rename_i hd
    rw [hd] at hv
    obtain rfl : 0 = n := Option.some.inj hv
    exact ⟨'0', [], by simp, by simp [isWordChar, isBlank], by decide⟩
  · rename_i d ds hd
    rw [hd] at hv hm
    exact ⟨d, ds, String.toList_ofList, hm, hv⟩

/-- Every number below 2^64 that the disassembler prints is one word, and the reader reads it back. -/
theorem operandText_num_spec (n : Nat) (h : n < 2 ^ 64) :
    ∃ cs, (operandText (.num n)).toList = '0' :: cs ∧ (∀ c ∈ '0' :: cs, isWordChar c = true) ∧
      parseOperand (.word ('0' :: cs)) = .ok (.num n) := by
  obtain ⟨d, ds, ht, hm, hv⟩ := shortHexText_spec n h
  refine ⟨'x' :: d :: ds, by simp [operandText, ht], ?_, by simp [parseOperand, parseNumber, hv]⟩
  intro c hc
  obtain rfl | rfl | hc : c = '0' ∨ c = 'x' ∨ c ∈ d :: ds := by simpa using hc
  · decide
  · decide
  · exact hm c hc

/-- A mnemonic is one word in capitals. -/
theorem mnemonic_spec (i : Instr) :
    i.mnemonic.toList ≠ [] ∧ (∀ c ∈ i.mnemonic.toList, isWordChar c = true) ∧
      i.mnemonic.toList.map Char.toUpper = i.mnemonic.toList := by
  cases i <;> simp [Instr.mnemonic, isWordChar, isBlank]

/-- The operands after the first, as printed, end the word before them and read back as the operands. -/
theorem lexLine_moreOperands (ops : List Operand) (h : ∀ op ∈ ops, ∃ n, n < 2 ^ 64 ∧ op = .num n) (w : List Char) :
    ∃ ts, lexLine (.inWord w) (String.join (ops.map fun o => ", " ++ operandText o)).toList = .ok (.word w.reverse :: ts) ∧
      parseMore ts = .ok ops := by
  induction ops generalizing w with
  | nil => exact ⟨[], by simp [lexLine], rfl⟩
  | cons op ops ih =>
    obtain ⟨⟨n, hn, rfl⟩, hops⟩ := List.forall_mem_cons.mp h
    obtain ⟨cs, ht, hm, hp⟩ := operandText_num_spec n hn
    obtain ⟨ts, hl, hts⟩ := ih hops ('0' :: cs).reverse
    refine ⟨.comma :: .word ('0' :: cs) :: ts, ?_, by rw [parseMore, hp, hts]; rfl⟩
    have hs : (String.join ((Operand.num n :: ops).map fun o => ", " ++ operandText o)).toList =
        ',' :: ' ' :: ('0' :: cs ++ (String.join (ops.map fun o => ", " ++ operandText o)).toList) := by
      simp [String.join_cons, ht]
    rw [hs, lexLine_inWord_comma, lexLine_between_space, lexLine_word_append _ _ _ hm, hl]
    simp [Except.map]

/-- Text whose tokens parse to a line assembles as that line. -/
theorem assembleText_eq (text : String) (ts : List Token) (line : AsmLine)
    (hl : lexLine .between text.toList = .ok ts) (hp : parseTokens ts = .ok line) : assembleText text = assemble line := by
  rw [assembleText, hl]
  exact congrArg (· >>= assemble) hp

/-- Every line of a command and numbers below 2^64 reads back from its print: text and record assemble alike. -/
theorem assembleText_lineText (i : Instr) (ops : List Operand) (h : ∀ op ∈ ops, ∃ n, n < 2 ^ 64 ∧ op = .num n) :
    assembleText (lineText ⟨i.mnemonic, ops⟩) = assemble ⟨i.mnemonic, ops⟩ := by
  obtain ⟨hne, hm, hu⟩ := mnemonic_spec i
  obtain ⟨c, cs, hc⟩ := List.exists_cons_of_ne_nil hne
  have hi : String.ofList ((c :: cs).map Char.toUpper) = i.mnemonic := by rw [← hc, hu, String.ofList_toList]
  rw [hc] at hm
  cases ops with
  | nil =>
    apply assembleText_eq _ [.word (c :: cs)]
    · have hl := lexLine_word_append c cs [] hm
      rw [List.append_nil] at hl
      simp only [lineText, hc, hl, lexLine, List.reverse_reverse]
    · rw [parseTokens, hi]
  | cons op ops =>
    obtain ⟨⟨n, hn, rfl⟩, hops⟩ := List.forall_mem_cons.mp h
    obtain ⟨ds, ht, hd, hp⟩ := operandText_num_spec n hn
    obtain ⟨ts, hl, hts⟩ := lexLine_moreOperands ops hops ('0' :: ds).reverse
    have hs : (lineText ⟨i.mnemonic, .num n :: ops⟩).toList =
        c :: cs ++ (' ' :: ('0' :: ds ++ (String.join (ops.map fun o => ", " ++ operandText o)).toList)) := by
      simp [lineText, ht, hc]
    apply assembleText_eq _ (.word (c :: cs) :: .word ('0' :: ds) :: ts)
    · rw [hs, lexLine_word_append _ _ _ hm, lexLine_inWord_space, lexLine_word_append _ _ _ hd, hl]
      simp only [Except.map, List.reverse_reverse]
    · rw [parseTokens, hp, hts, hi]
      rfl

end Sys2Proof.Machine
end

