-- ==== Sys2Proof/Laws/Crc.lean ====
section
/-! SUPPORT. The spec lemmas of `calculate` (42_crc.md R103): its value on no byte, and one byte at a time. -/

namespace Sys2Proof

/-- The complement of `calculate`'s result is the internal register. -/
theorem calculate_complement (seed : Word32) (bytes : List Byte) :
    calculate seed bytes ^^^ 0xFFFFFFFF = bytes.foldl crcStep (seed ^^^ 0xFFFFFFFF) := by
  simp [calculate]

@[simp] theorem calculate_nil (seed : Word32) : calculate seed [] = seed := by
  simp [calculate]

/-- Feeding a byte first, then the rest. -/
theorem calculate_cons (seed : Word32) (b : Byte) (bytes : List Byte) :
    calculate seed (b :: bytes) = calculate (calculate seed [b]) bytes := by
  simp [calculate]

end Sys2Proof
end

