-- ==== Sys2Proof/Laws/Decode.lean ====
section
/-! SUPPORT. What the decoder and the encoder say about the three fields of a command word (30_encoding.md R51). -/

namespace Sys2Proof
/-- A command word is its three fields. -/
theorem word_eq_fields (w : Word32) : cmdRsvd w ++ cmdN w ++ cmdOp w = w := by
  refine BitVec.eq_of_getLsbD_eq fun i hi => ?_
  simp only [cmdRsvd, cmdN, cmdOp, BitVec.extractLsb, BitVec.getLsbD_append, BitVec.getLsbD_extractLsb']
  split
  · rename_i h; simp [h]
  · rename_i h; split
    · rename_i h'; simp only [h', decide_true, Bool.true_and]; congr 1; omega
    · have : i - 8 - 4 < 20 := by omega
      simp only [Nat.reduceSub, Nat.reduceAdd, this, decide_true, Bool.true_and]; congr 1; omega

/-- Bit `i` of a word put together from fields. -/
theorem getLsbD_fields (r : BitVec 20) (n : BitVec 4) (op : BitVec 8) (i : Nat) :
    (r ++ n ++ op : Word32).getLsbD i =
      if i < 8 then op.getLsbD i else if i - 8 < 4 then n.getLsbD (i - 8) else r.getLsbD (i - 8 - 4) := by
  refine (BitVec.getLsbD_append (x := r ++ n) (y := op) (i := i)).trans ?_
  rw [BitVec.getLsbD_append]

/-- The fields of a word put together from fields. -/
@[simp] theorem cmdOp_fields (r : BitVec 20) (n : BitVec 4) (op : BitVec 8) : cmdOp (r ++ n ++ op) = op := by
  refine BitVec.eq_of_getLsbD_eq fun i hi => ?_
  simp only [cmdOp, BitVec.extractLsb, BitVec.getLsbD_extractLsb', getLsbD_fields]
  simp [hi]

@[simp] theorem cmdN_fields (r : BitVec 20) (n : BitVec 4) (op : BitVec 8) : cmdN (r ++ n ++ op) = n := by
  refine BitVec.eq_of_getLsbD_eq fun i hi => ?_
  simp only [cmdN, BitVec.extractLsb, BitVec.getLsbD_extractLsb', getLsbD_fields]
  simp [hi]

@[simp] theorem cmdRsvd_fields (r : BitVec 20) (n : BitVec 4) (op : BitVec 8) : cmdRsvd (r ++ n ++ op) = r := by
  refine BitVec.eq_of_getLsbD_eq fun i hi => ?_
  have h : ¬ (12 + i < 8) := by omega
  have h' : ¬ (12 + i - 8 < 4) := by omega
  have h'' : 12 + i - 8 - 4 = i := by omega
  simp only [cmdRsvd, BitVec.extractLsb, BitVec.getLsbD_extractLsb', getLsbD_fields]
  simp [hi, h, h', h'']

/-- The decoder answers an instruction exactly when RSVD is 0, the opcode map has the OP, and N is in its range. -/
theorem decode_eq_ok (w : Word32) (i : Instr) :
    decode w = .ok i ↔
      cmdRsvd w = 0 ∧ instrOfOp (cmdOp w) (cmdN w) = some i ∧ countInRange i (cmdN w) = true := by
  unfold decode
  by_cases hr : cmdRsvd w = 0
  · rw [if_neg (not_not.mpr hr)]
    cases hi : instrOfOp (cmdOp w) (cmdN w) with
    | none => simp
    | some j =>
      by_cases hc : countInRange j (cmdN w) = true
      · simp only [hr, hc, if_true, true_and, Except.ok.injEq, Option.some.injEq]
        exact ⟨by rintro rfl; exact ⟨rfl, hc⟩, fun h => h.1⟩
      · simp only [hr, hc, if_false, true_and, Option.some.injEq, Bool.false_eq_true, reduceCtorEq, false_iff]
        rintro ⟨rfl, h⟩; exact absurd h hc
  · rw [if_pos hr]
    simp only [reduceCtorEq, false_iff]
    exact fun h => hr h.1

/-- The encoder's fields. -/
@[simp] theorem cmdOp_encode (i : Instr) : cmdOp (encode i) = i.opcode := cmdOp_fields _ _ _

@[simp] theorem cmdN_encode (i : Instr) : cmdN (encode i) = i.count := cmdN_fields _ _ _

@[simp] theorem cmdRsvd_encode (i : Instr) : cmdRsvd (encode i) = 0 := cmdRsvd_fields _ _ _

end Sys2Proof
end

