-- ==== Sys2Proof/Laws/Operands.lean ====
section
/-! SUPPORT. The operand helpers bit by bit: the spec lemmas of `byteAt`, the byte reversals and the wire forms. -/

namespace Sys2Proof

/-- Bit `i` of byte `k` is bit `8k + i` of the value. -/
@[simp] theorem getLsbD_byteAt {w : Nat} (v : BitVec w) (k i : Nat) :
    (byteAt v k).getLsbD i = (decide (i < 8) && v.getLsbD (8 * k + i)) := by
  simp [byteAt]

@[simp] theorem wireBytes_length {w : Nat} (n : Nat) (v : BitVec w) : (wireBytes n v).length = n := by
  induction n with
  | zero => rfl
  | succ n ih => simp [wireBytes, ih]

/-- The wire value of a sequence is below 256 to its length. -/
theorem wireValue_lt (bs : List Byte) : wireValue bs < 256 ^ bs.length := by
  induction bs with
  | nil => simp [wireValue]
  | cons b bs ih =>
    have hb : b.toNat < 256 := b.isLt
    have hp : 0 < 256 ^ bs.length := Nat.pow_pos (by omega)
    simp only [wireValue, List.length_cons, Nat.pow_succ]
    nlinarith

end Sys2Proof
end

