-- ==== Sys2Proof/Laws/PerInstr.lean ====
section
/-! SUPPORT. Per-instruction facts about the syntax alone, one lemma per constructor of Instr.

EncodeFields: an instruction's word has RSVD = 0 (30_encoding.md R54), and its OP is in the opcode map under its own mnemonic (R55). -/

namespace Sys2Proof.Laws.EncodeFields

/-- The word of `i` has RSVD = 0, belongs to exactly one row of the opcode table, and that row carries `i`'s mnemonic. -/
def Statement (i : Instr) : Prop :=
  cmdRsvd (encode i) = 0 ∧ (rowsMatching (encode i)).map OpcodeRow.mnemonic = [i.mnemonic]

theorem nop : Statement .nop := ⟨rfl, by decide⟩

theorem ident : Statement .ident := ⟨rfl, by decide⟩

theorem statRd : Statement .statRd := ⟨rfl, by decide⟩

theorem statClr : Statement .statClr := ⟨rfl, by decide⟩

theorem crcInit : Statement .crcInit := ⟨rfl, by decide⟩

theorem crcFeed (n : BitVec 4) : Statement (.crcFeed n) := ⟨cmdRsvd_encode _, by revert n; decide⟩

theorem crcRead : Statement .crcRead := ⟨rfl, by decide⟩

theorem crcCheck : Statement .crcCheck := ⟨rfl, by decide⟩

theorem crcTab : Statement .crcTab := ⟨rfl, by decide⟩

theorem endProbe : Statement .endProbe := ⟨rfl, by decide⟩

theorem endSwap64 : Statement .endSwap64 := ⟨rfl, by decide⟩

theorem endHton64 : Statement .endHton64 := ⟨rfl, by decide⟩

theorem endNtoh64 : Statement .endNtoh64 := ⟨rfl, by decide⟩

theorem endHton32 : Statement .endHton32 := ⟨rfl, by decide⟩

theorem endNtoh32 : Statement .endNtoh32 := ⟨rfl, by decide⟩

theorem endHton16 : Statement .endHton16 := ⟨rfl, by decide⟩

theorem endNtoh16 : Statement .endNtoh16 := ⟨rfl, by decide⟩

theorem hdrUnpack : Statement .hdrUnpack := ⟨rfl, by decide⟩

theorem hdrPack : Statement .hdrPack := ⟨rfl, by decide⟩

theorem hdrLen : Statement .hdrLen := ⟨rfl, by decide⟩

end Sys2Proof.Laws.EncodeFields
end

