-- ==== Sys2Proof/Laws/State.lean ====
section
/-! SUPPORT. One lemma per field of State and per named update: what the update leaves in the field. -/

namespace Sys2Proof.Machine.State

variable (s : State)

@[simp] theorem finish_crc (res : Word64) (st : Byte) : (s.finish res st).crc = s.crc := rfl
@[simp] theorem finish_sticky (res : Word64) (st : Byte) : (s.finish res st).sticky = accumulate s.sticky st := rfl
@[simp] theorem finish_cfg (res : Word64) (st : Byte) : (s.finish res st).cfg = s.cfg := rfl
@[simp] theorem finish_port (res : Word64) (st : Byte) : (s.finish res st).port = s.port := rfl
@[simp] theorem finish_issuer (res : Word64) (st : Byte) : (s.finish res st).issuer = s.issuer := rfl
@[simp] theorem finish_reply (res : Word64) (st : Byte) : (s.finish res st).reply = some { agent := s.issuer, res := res, st := st } := rfl
@[simp] theorem finish_agents (res : Word64) (st : Byte) : (s.finish res st).agents = s.agents := rfl
@[simp] theorem finish_order (res : Word64) (st : Byte) : (s.finish res st).order = s.order := rfl

@[simp] theorem finishClearing_crc (res : Word64) : (s.finishClearing res).crc = s.crc := rfl
@[simp] theorem finishClearing_sticky (res : Word64) : (s.finishClearing res).sticky = 0 := rfl
@[simp] theorem finishClearing_cfg (res : Word64) : (s.finishClearing res).cfg = s.cfg := rfl
@[simp] theorem finishClearing_port (res : Word64) : (s.finishClearing res).port = s.port := rfl
@[simp] theorem finishClearing_issuer (res : Word64) : (s.finishClearing res).issuer = s.issuer := rfl
@[simp] theorem finishClearing_reply (res : Word64) : (s.finishClearing res).reply = some { agent := s.issuer, res := res, st := stNone } := rfl
@[simp] theorem finishClearing_agents (res : Word64) : (s.finishClearing res).agents = s.agents := rfl
@[simp] theorem finishClearing_order (res : Word64) : (s.finishClearing res).order = s.order := rfl

@[simp] theorem setCrc_crc (v : Word32) : (s.setCrc v).crc = v := rfl
@[simp] theorem setCrc_sticky (v : Word32) : (s.setCrc v).sticky = s.sticky := rfl
@[simp] theorem setCrc_cfg (v : Word32) : (s.setCrc v).cfg = s.cfg := rfl
@[simp] theorem setCrc_port (v : Word32) : (s.setCrc v).port = s.port := rfl
@[simp] theorem setCrc_issuer (v : Word32) : (s.setCrc v).issuer = s.issuer := rfl
@[simp] theorem setCrc_reply (v : Word32) : (s.setCrc v).reply = s.reply := rfl
@[simp] theorem setCrc_agents (v : Word32) : (s.setCrc v).agents = s.agents := rfl
@[simp] theorem setCrc_order (v : Word32) : (s.setCrc v).order = s.order := rfl

@[simp] theorem applyReset_crc : (s.applyReset).crc = 0 := rfl
@[simp] theorem applyReset_sticky : (s.applyReset).sticky = 0 := rfl
@[simp] theorem applyReset_cfg : (s.applyReset).cfg = s.cfg := rfl
@[simp] theorem applyReset_port : (s.applyReset).port = s.port := rfl
@[simp] theorem applyReset_issuer : (s.applyReset).issuer = s.issuer := rfl
@[simp] theorem applyReset_reply : (s.applyReset).reply = none := rfl
@[simp] theorem applyReset_agents : (s.applyReset).agents = s.agents := rfl
@[simp] theorem applyReset_order : (s.applyReset).order = s.order := rfl

@[simp] theorem idle_crc : (s.idle).crc = s.crc := rfl
@[simp] theorem idle_sticky : (s.idle).sticky = s.sticky := rfl
@[simp] theorem idle_cfg : (s.idle).cfg = s.cfg := rfl
@[simp] theorem idle_port : (s.idle).port = s.port := rfl
@[simp] theorem idle_issuer : (s.idle).issuer = s.issuer := rfl
@[simp] theorem idle_reply : (s.idle).reply = none := rfl
@[simp] theorem idle_agents : (s.idle).agents = s.agents := rfl
@[simp] theorem idle_order : (s.idle).order = s.order := rfl

@[simp] theorem accept_crc (k : Nat) (t : Transaction) (rest : List Turn) : (s.accept k t rest).crc = s.crc := rfl
@[simp] theorem accept_sticky (k : Nat) (t : Transaction) (rest : List Turn) : (s.accept k t rest).sticky = s.sticky := rfl
@[simp] theorem accept_cfg (k : Nat) (t : Transaction) (rest : List Turn) : (s.accept k t rest).cfg = s.cfg := rfl
@[simp] theorem accept_port (k : Nat) (t : Transaction) (rest : List Turn) : (s.accept k t rest).port = t := rfl
@[simp] theorem accept_issuer (k : Nat) (t : Transaction) (rest : List Turn) : (s.accept k t rest).issuer = k := rfl
@[simp] theorem accept_reply (k : Nat) (t : Transaction) (rest : List Turn) : (s.accept k t rest).reply = s.reply := rfl
@[simp] theorem accept_agents (k : Nat) (t : Transaction) (rest : List Turn) : (s.accept k t rest).agents = issued s.agents k := rfl
@[simp] theorem accept_order (k : Nat) (t : Transaction) (rest : List Turn) : (s.accept k t rest).order = rest := rfl

@[simp] theorem withOrder_crc (rest : List Turn) : (s.withOrder rest).crc = s.crc := rfl
@[simp] theorem withOrder_sticky (rest : List Turn) : (s.withOrder rest).sticky = s.sticky := rfl
@[simp] theorem withOrder_cfg (rest : List Turn) : (s.withOrder rest).cfg = s.cfg := rfl
@[simp] theorem withOrder_port (rest : List Turn) : (s.withOrder rest).port = s.port := rfl
@[simp] theorem withOrder_issuer (rest : List Turn) : (s.withOrder rest).issuer = s.issuer := rfl
@[simp] theorem withOrder_reply (rest : List Turn) : (s.withOrder rest).reply = s.reply := rfl
@[simp] theorem withOrder_agents (rest : List Turn) : (s.withOrder rest).agents = s.agents := rfl
@[simp] theorem withOrder_order (rest : List Turn) : (s.withOrder rest).order = rest := rfl

@[simp] theorem cutCommand_crc (k : Nat) : (s.cutCommand k).crc = s.crc := rfl
@[simp] theorem cutCommand_sticky (k : Nat) : (s.cutCommand k).sticky = s.sticky := rfl
@[simp] theorem cutCommand_cfg (k : Nat) : (s.cutCommand k).cfg = s.cfg := rfl
@[simp] theorem cutCommand_port (k : Nat) : (s.cutCommand k).port = s.port := rfl
@[simp] theorem cutCommand_issuer (k : Nat) : (s.cutCommand k).issuer = s.issuer := rfl
@[simp] theorem cutCommand_reply (k : Nat) : (s.cutCommand k).reply = s.reply := rfl
@[simp] theorem cutCommand_agents (k : Nat) : (s.cutCommand k).agents = issued s.agents k := rfl
@[simp] theorem cutCommand_order (k : Nat) : (s.cutCommand k).order = s.order := rfl

@[simp] theorem issueNext_crc (t : Transaction) : (s.issueNext t).crc = s.crc := rfl
@[simp] theorem issueNext_sticky (t : Transaction) : (s.issueNext t).sticky = s.sticky := rfl
@[simp] theorem issueNext_cfg (t : Transaction) : (s.issueNext t).cfg = s.cfg := rfl
@[simp] theorem issueNext_port (t : Transaction) : (s.issueNext t).port = s.port := rfl
@[simp] theorem issueNext_issuer (t : Transaction) : (s.issueNext t).issuer = s.issuer := rfl
@[simp] theorem issueNext_reply (t : Transaction) : (s.issueNext t).reply = s.reply := rfl
@[simp] theorem issueNext_agents (t : Transaction) : (s.issueNext t).agents = queueFirst t s.agents := rfl
@[simp] theorem issueNext_order (t : Transaction) : (s.issueNext t).order = .agent 0 :: s.order := rfl

@[simp] theorem raiseIll_eq_finish : s.raiseIll = s.finish 0 stIll := rfl

/-- A finished command whose status has no error bit leaves STICKY as it was. -/
@[simp] theorem accumulate_stNone (sticky : BitVec 3) : accumulate sticky stNone = sticky := by
  simp [accumulate, errorBits, stNone]

end Sys2Proof.Machine.State
end

