-- ==== Sys2Proof/Laws/Step.lean ====
section
/-! SUPPORT. What a command and a step can do, said once: every later proof about a next state goes through these inversions. -/

namespace Sys2Proof.Machine

/-- If a command answers a next state, that state is the old one with the accumulator set (CRC_INIT, CRC_FEED) or not, and the command
finished: STICKY accumulated, or cleared by STAT_CLR. -/
theorem exec_cases (i : Instr) (s s' : State) (h : exec i s = .next s') :
    (∃ res st, s' = s.finish res st) ∨
    (i = .statClr ∧ s' = s.finishClearing (zext64 s.sticky)) ∨
    (i = .crcInit ∧ s' = (s.setCrc (opa32 s)).finish (zext64 (opa32 s)) stNone) ∨
    (∃ n, i = .crcFeed n ∧ feedCount n = true ∧
      s' = (s.setCrc (fedCrc n.toNat s)).finish (zext64 (fedCrc n.toNat s)) stNone) := by
  cases i with
  | crcFeed n =>
    simp only [exec, execCrcFeed] at h
    split at h
    · rename_i hn
      obtain rfl := Host.Outcome.next.inj h
      exact .inr (.inr (.inr ⟨n, rfl, hn, rfl⟩))
    · obtain rfl := Host.Outcome.next.inj h
      exact .inl ⟨_, _, rfl⟩
  | statClr =>
    obtain rfl := Host.Outcome.next.inj h
    exact .inr (.inl ⟨rfl, rfl⟩)
  | crcInit =>
    obtain rfl := Host.Outcome.next.inj h
    exact .inr (.inr (.inl ⟨rfl, rfl⟩))
  | _ =>
    obtain rfl := Host.Outcome.next.inj h
    exact .inl ⟨_, _, rfl⟩

/-- The frame of every command: configuration, port inputs and the host's queues are as before, and the reply goes to the issuer. -/
theorem exec_frame (i : Instr) (s s' : State) (h : exec i s = .next s') :
    s'.cfg = s.cfg ∧ s'.port = s.port ∧ s'.issuer = s.issuer ∧ s'.agents = s.agents ∧ s'.order = s.order ∧
      ∃ res st, s'.reply = some { agent := s.issuer, res := res, st := st } := by
  obtain ⟨res, st, rfl⟩ | ⟨-, rfl⟩ | ⟨-, rfl⟩ | ⟨n, -, -, rfl⟩ := exec_cases i s s' h <;>
    exact ⟨rfl, rfl, rfl, rfl, rfl, _, _, rfl⟩

/-- What one step can do: wait, pass a turn, run a legal command, answer an illegal word, or reset. -/
theorem step_cases (s s' : State) (h : step s = .next s') :
    (s.order = [] ∧ s' = s.idle) ∨
    (∃ k rest, s.order = .agent k :: rest ∧ s.nextOf k = none ∧ s' = (s.withOrder rest).idle) ∨
    (∃ k rest t i, s.order = .agent k :: rest ∧ s.nextOf k = some t ∧ decode t.cmd = .ok i ∧
      exec i (s.accept k t rest) = .next s') ∨
    (∃ k rest t e, s.order = .agent k :: rest ∧ s.nextOf k = some t ∧ decode t.cmd = .error e ∧
      s' = (s.accept k t rest).raiseIll) ∨
    (∃ rest, (s.order = .reset :: rest ∨ s.order = .powerLoss :: rest) ∧ s' = (s.withOrder rest).applyReset) ∨
    (∃ k rest, s.order = .resetDuring k :: rest ∧ s' = ((s.withOrder rest).cutCommand k).applyReset) := by
  unfold step serveTurn at h
  split at h
  · obtain rfl := Host.Outcome.next.inj h
    exact .inl ⟨‹_›, rfl⟩
  · rename_i k rest ho
    unfold agentTurn runCommand at h
    split at h
    · rename_i t ht
      split at h
      · exact .inr (.inr (.inl ⟨k, rest, t, _, ho, ht, ‹_›, h⟩))
      · obtain rfl := Host.Outcome.next.inj h
        exact .inr (.inr (.inr (.inl ⟨k, rest, t, _, ho, ht, ‹_›, rfl⟩)))
    · obtain rfl := Host.Outcome.next.inj h
      exact .inr (.inl ⟨k, rest, ho, ‹_›, rfl⟩)
  · obtain rfl := Host.Outcome.next.inj h
    exact .inr (.inr (.inr (.inr (.inl ⟨_, .inl ‹_›, rfl⟩))))
  · obtain rfl := Host.Outcome.next.inj h
    exact .inr (.inr (.inr (.inr (.inr ⟨_, _, ‹_›, rfl⟩))))
  · obtain rfl := Host.Outcome.next.inj h
    exact .inr (.inr (.inr (.inr (.inl ⟨_, .inr ‹_›, rfl⟩))))

/-- A command placed for the next step is the one its agent has to issue. -/
@[simp] theorem nextOf_issueNext (s : State) (t : Transaction) : (s.issueNext t).nextOf 0 = some t := by
  cases h : s.agents <;> simp [State.nextOf, queueFirst, h]

/-- Taking it back off the queue leaves the agents as they were, up to an empty queue for agent 0. -/
theorem issued_queueFirst (t : Transaction) (q : List Transaction) (qs : List (List Transaction)) :
    issued (queueFirst t (q :: qs)) 0 = q :: qs := rfl

/-- What is left of each agent's queue after agent `k` has issued a command. -/
theorem issued_getElem? (agents : List (List Transaction)) (k j : Nat) :
    (issued agents k)[j]? = if j = k then (agents[j]?).map List.tail else agents[j]? := by
  by_cases h : j = k
  · subst h; simp [issued]
  · have h' : k ≠ j := fun e => h e.symm
    simp [issued, h, h']

end Sys2Proof.Machine
end

