-- ==== Sys2Proof/Tests/Slice0.lean ====
section
/-! SUPPORT. The model's own tests: ill-formed terms, decoding, one step per command on values of the spec's tables, and for each statement
with hypotheses a witness that meets them. Expected values are those of 95_test_vectors.md (sections named below) and of 42_crc.md
section 5, never the model's own answers. -/

namespace Sys2Proof.Tests

open Sys2Proof.Machine Sys2Proof.Safety

/-! ## Well-formedness (30_encoding.md R53) -/

theorem test_wf_refuses_count_zero : (Instr.crcFeed 0).wf = false := by decide

theorem test_wf_refuses_count_nine : (Instr.crcFeed 9).wf = false := by decide

theorem test_wf_admits_one_and_eight : (Instr.crcFeed 1).wf = true ∧ (Instr.crcFeed 8).wf = true := by decide

/-! ## Decoding: words written out bit by bit, RSVD N OP (30_encoding.md R51, R55) -/

theorem test_decode_nop : decode 0b00000000000000000000_0000_00000000 = .ok .nop := by decide

theorem test_decode_ident : decode 0b00000000000000000000_0000_00000001 = .ok .ident := by decide

theorem test_decode_statRd : decode 0b00000000000000000000_0000_00000010 = .ok .statRd := by decide

theorem test_decode_statClr : decode 0b00000000000000000000_0000_00000011 = .ok .statClr := by decide

theorem test_decode_crcInit : decode 0b00000000000000000000_0000_00010000 = .ok .crcInit := by decide

theorem test_decode_crcFeed_1 : decode 0b00000000000000000000_0001_00010001 = .ok (.crcFeed 1) := by decide

theorem test_decode_crcFeed_8 : decode 0b00000000000000000000_1000_00010001 = .ok (.crcFeed 8) := by decide

theorem test_decode_crcRead : decode 0b00000000000000000000_0000_00010010 = .ok .crcRead := by decide

theorem test_decode_crcCheck : decode 0b00000000000000000000_0000_00010011 = .ok .crcCheck := by decide

theorem test_decode_crcTab : decode 0b00000000000000000000_0000_00010100 = .ok .crcTab := by decide

theorem test_decode_endProbe : decode 0b00000000000000000000_0000_00100000 = .ok .endProbe := by decide

theorem test_decode_endSwap64 : decode 0b00000000000000000000_0000_00100001 = .ok .endSwap64 := by decide

theorem test_decode_endHton64 : decode 0b00000000000000000000_0000_00100010 = .ok .endHton64 := by decide

theorem test_decode_endNtoh64 : decode 0b00000000000000000000_0000_00100011 = .ok .endNtoh64 := by decide

theorem test_decode_endHton32 : decode 0b00000000000000000000_0000_00100100 = .ok .endHton32 := by decide

theorem test_decode_endNtoh32 : decode 0b00000000000000000000_0000_00100101 = .ok .endNtoh32 := by decide

theorem test_decode_endHton16 : decode 0b00000000000000000000_0000_00100110 = .ok .endHton16 := by decide

theorem test_decode_endNtoh16 : decode 0b00000000000000000000_0000_00100111 = .ok .endNtoh16 := by decide

theorem test_decode_hdrUnpack : decode 0b00000000000000000000_0000_00110000 = .ok .hdrUnpack := by decide

theorem test_decode_hdrPack : decode 0b00000000000000000000_0000_00110001 = .ok .hdrPack := by decide

theorem test_decode_hdrLen : decode 0b00000000000000000000_0000_00110010 = .ok .hdrLen := by decide

/-- 95_test_vectors.md section 2.5: the illegal words. -/
theorem test_decode_illegal :
    [0x00000011, 0x00000911, 0x00000F11, 0x00000110, 0x00001000, 0x80000012, 0x00000004, 0x00000015, 0x00000028, 0x00000033,
      0x000000FF, 0xFFFFFFFF].map (fun w : Word32 => (decode w).toOption) = List.replicate 12 none := by decide

theorem test_decode_names_the_defect :
    decode 0x00000911 = .error (.badCount 9) ∧ decode 0x00001000 = .error .reservedBits ∧
      decode 0x00000028 = .error (.reservedOp 0x28) := by decide

theorem test_decodeTableWord : decodeTableWord 32 0x00000011 = none ∧ decodeTableWord 32 0x00000511 = some (.crcFeed 5) := by
  decide

/-! ## One command (95_test_vectors.md section 2) -/

/-- A block with an agent's command on the port. -/
def block (cfg : Cfg) (crc : Word32) (sticky : BitVec 3) (a b : Word64) : State :=
  { crc := crc, sticky := sticky, cfg := cfg, port := { cmd := 0, opa := a, opb := b }, issuer := 7, reply := none, agents := [],
    order := [] }

/-- RES, ST, CRC and STICKY after a command. -/
def outcome (i : Instr) (s : State) : Option (Word64 × Byte × Word32 × BitVec 3) :=
  match exec i s with
  | .next t => t.reply.map fun r => (r.res, r.st, t.crc, t.sticky)
  | .fault _ => none
  | .refused _ => none

/-- The default configuration with a little-endian host. -/
def little : Cfg := ⟨false, .len16, .msbFirst⟩

/-- The default configuration with a big-endian host. -/
def big : Cfg := ⟨true, .len16, .msbFirst⟩

/-- LEN8. -/
def short : Cfg := ⟨false, .len8, .msbFirst⟩

/-- LSB_FIRST. -/
def lsb : Cfg := ⟨false, .len16, .lsbFirst⟩

theorem test_nop : outcome .nop (block little 0x12345678 0b101 0xFFFFFFFFFFFFFFFF 1) =
    some (0, 0x00, 0x12345678, 0b101) := by decide

theorem test_ident_big : outcome .ident (block big 0 0 0 0) =
    some (0x5346434200000301, 0x00, 0, 0) := by decide

theorem test_ident_lsb : outcome .ident (block ⟨true, .len16, .lsbFirst⟩ 0 0 0 0) =
    some (0x5346434200000701, 0x00, 0, 0) := by decide

theorem test_statRd : outcome .statRd (block little 1 0b101 0 0) =
    some (0x5, 0x00, 1, 0b101) := by decide

theorem test_statClr : outcome .statClr (block little 1 0b011 0 0) =
    some (0x3, 0x00, 1, 0b000) := by decide

theorem test_crcInit_ignores_high_bits : outcome .crcInit (block little 9 0b100 0xFFFFFFFF00000000 0) =
    some (0, 0x00, 0, 0b100) := by decide

theorem test_crcFeed_one_byte : outcome (.crcFeed 1) (block little 0 0 0xABCDEF61 0) =
    some (0xE8B7BE43, 0x00, 0xE8B7BE43, 0) := by decide

set_option maxRecDepth 4000 in
theorem test_crcFeed_eight_bytes : outcome (.crcFeed 8) (block little 0 0 0x3132333435363738 0) =
    some (0x9AE0DAAF, 0x00, 0x9AE0DAAF, 0) := by decide

theorem test_crcRead : outcome .crcRead (block little 0xCBF43926 0 0 0) =
    some (0xCBF43926, 0x00, 0xCBF43926, 0) := by decide

theorem test_crcCheck_match : outcome .crcCheck (block little 0xCBF43926 0 0xFFFFFFFFCBF43926 0) =
    some (1, 0x00, 0xCBF43926, 0) := by decide

theorem test_crcCheck_no_byte_reversal : outcome .crcCheck (block little 0xCBF43926 0b001 0x2639F4CB 0) =
    some (0, 0x04, 0xCBF43926, 0b101) := by decide

theorem test_crcTab : outcome .crcTab (block little 5 0 0x1FF 0) =
    some (0x2D02EF8D, 0x00, 5, 0) := by decide

theorem test_endProbe_little : outcome .endProbe (block little 0 0 0 0) =
    some (0, 0x00, 0, 0) := by decide

theorem test_endProbe_big : outcome .endProbe (block big 0 0 0 0) =
    some (1, 0x00, 0, 0) := by decide

theorem test_endSwap64_big : outcome .endSwap64 (block big 0 0 0xC0FFEECAFEC0DE42 0) =
    some (0x42DEC0FECAEEFFC0, 0x00, 0, 0) := by decide

theorem test_endHton64_little : outcome .endHton64 (block little 0 0 0x0000000000011170 0) =
    some (0x7011010000000000, 0x00, 0, 0) := by decide

theorem test_endHton64_big : outcome .endHton64 (block big 0 0 0x0000000000011170 0) =
    some (0x0000000000011170, 0x00, 0, 0) := by decide

theorem test_endNtoh64_little : outcome .endNtoh64 (block little 0 0 0x0807060504030201 0) =
    some (0x0102030405060708, 0x00, 0, 0) := by decide

theorem test_endHton32_ignores_high_bits : outcome .endHton32 (block little 0 0 0xFFFFFFFF12345678 0) =
    some (0x0000000078563412, 0x00, 0, 0) := by decide

theorem test_endNtoh32_little : outcome .endNtoh32 (block little 0 0 0x0000000080000000 0) =
    some (0x0000000000000080, 0x00, 0, 0) := by decide

theorem test_endHton16_little : outcome .endHton16 (block little 0 0 0x0000000000001234 0) =
    some (0x0000000000003412, 0x00, 0, 0) := by decide

theorem test_endNtoh16_big : outcome .endNtoh16 (block big 0 0 0x00000000ABCD0500 0) =
    some (0x0000000000000500, 0x00, 0, 0) := by decide

theorem test_hdrUnpack_struct_and_ext : outcome .hdrUnpack (block little 3 0b100 0x9F02FFFF 0) =
    some (0x000003009F02FFFF, 0x0A, 3, 0b110) := by decide

theorem test_hdrUnpack_short_pad : outcome .hdrUnpack (block short 0 0 0xFFFFFFFF 0) =
    some (0x000003FFFFFF00FF, 0x0A, 0, 0b010) := by decide

theorem test_hdrUnpack_lsb : outcome .hdrUnpack (block lsb 0 0 0x07FF1234 0) =
    some (0x00000000E0FF1234, 0x00, 0, 0) := by decide

theorem test_hdrPack_struct : outcome .hdrPack (block ⟨false, .len8, .lsbFirst⟩ 0 0 0xFFFFFFFFFFFFFFFF 1) =
    some (0x0000000007FF0100, 0x02, 0, 0b010) := by decide

theorem test_hdrPack_escape : outcome .hdrPack (block little 0 0 0x80020000 65535) =
    some (0x000000018002FFFF, 0x08, 0, 0) := by decide

theorem test_hdrLen_not_minimal : outcome .hdrLen (block little 0 0 0x000000000000FFFF 3) =
    some (3, 0x08, 0, 0) := by decide

theorem test_hdrLen_short_ignores_high_bits : outcome .hdrLen (block short 0 0 0x00000000000001FE 0xDEAD) =
    some (0xFE, 0x00, 0, 0) := by decide

/-! ## The CRC table (42_crc.md section 5, all 256 entries) -/

theorem test_table_0 : (List.range 64).map (fun i => crcTable (BitVec.ofNat 8 (0 + i))) =
    [0x00000000, 0x77073096, 0xEE0E612C, 0x990951BA, 0x076DC419, 0x706AF48F, 0xE963A535, 0x9E6495A3,
     0x0EDB8832, 0x79DCB8A4, 0xE0D5E91E, 0x97D2D988, 0x09B64C2B, 0x7EB17CBD, 0xE7B82D07, 0x90BF1D91,
     0x1DB71064, 0x6AB020F2, 0xF3B97148, 0x84BE41DE, 0x1ADAD47D, 0x6DDDE4EB, 0xF4D4B551, 0x83D385C7,
     0x136C9856, 0x646BA8C0, 0xFD62F97A, 0x8A65C9EC, 0x14015C4F, 0x63066CD9, 0xFA0F3D63, 0x8D080DF5,
     0x3B6E20C8, 0x4C69105E, 0xD56041E4, 0xA2677172, 0x3C03E4D1, 0x4B04D447, 0xD20D85FD, 0xA50AB56B,
     0x35B5A8FA, 0x42B2986C, 0xDBBBC9D6, 0xACBCF940, 0x32D86CE3, 0x45DF5C75, 0xDCD60DCF, 0xABD13D59,
     0x26D930AC, 0x51DE003A, 0xC8D75180, 0xBFD06116, 0x21B4F4B5, 0x56B3C423, 0xCFBA9599, 0xB8BDA50F,
     0x2802B89E, 0x5F058808, 0xC60CD9B2, 0xB10BE924, 0x2F6F7C87, 0x58684C11, 0xC1611DAB, 0xB6662D3D] := by decide

theorem test_table_1 : (List.range 64).map (fun i => crcTable (BitVec.ofNat 8 (64 + i))) =
    [0x76DC4190, 0x01DB7106, 0x98D220BC, 0xEFD5102A, 0x71B18589, 0x06B6B51F, 0x9FBFE4A5, 0xE8B8D433,
     0x7807C9A2, 0x0F00F934, 0x9609A88E, 0xE10E9818, 0x7F6A0DBB, 0x086D3D2D, 0x91646C97, 0xE6635C01,
     0x6B6B51F4, 0x1C6C6162, 0x856530D8, 0xF262004E, 0x6C0695ED, 0x1B01A57B, 0x8208F4C1, 0xF50FC457,
     0x65B0D9C6, 0x12B7E950, 0x8BBEB8EA, 0xFCB9887C, 0x62DD1DDF, 0x15DA2D49, 0x8CD37CF3, 0xFBD44C65,
     0x4DB26158, 0x3AB551CE, 0xA3BC0074, 0xD4BB30E2, 0x4ADFA541, 0x3DD895D7, 0xA4D1C46D, 0xD3D6F4FB,
     0x4369E96A, 0x346ED9FC, 0xAD678846, 0xDA60B8D0, 0x44042D73, 0x33031DE5, 0xAA0A4C5F, 0xDD0D7CC9,
     0x5005713C, 0x270241AA, 0xBE0B1010, 0xC90C2086, 0x5768B525, 0x206F85B3, 0xB966D409, 0xCE61E49F,
     0x5EDEF90E, 0x29D9C998, 0xB0D09822, 0xC7D7A8B4, 0x59B33D17, 0x2EB40D81, 0xB7BD5C3B, 0xC0BA6CAD] := by decide

theorem test_table_2 : (List.range 64).map (fun i => crcTable (BitVec.ofNat 8 (128 + i))) =
    [0xEDB88320, 0x9ABFB3B6, 0x03B6E20C, 0x74B1D29A, 0xEAD54739, 0x9DD277AF, 0x04DB2615, 0x73DC1683,
     0xE3630B12, 0x94643B84, 0x0D6D6A3E, 0x7A6A5AA8, 0xE40ECF0B, 0x9309FF9D, 0x0A00AE27, 0x7D079EB1,
     0xF00F9344, 0x8708A3D2, 0x1E01F268, 0x6906C2FE, 0xF762575D, 0x806567CB, 0x196C3671, 0x6E6B06E7,
     0xFED41B76, 0x89D32BE0, 0x10DA7A5A, 0x67DD4ACC, 0xF9B9DF6F, 0x8EBEEFF9, 0x17B7BE43, 0x60B08ED5,
     0xD6D6A3E8, 0xA1D1937E, 0x38D8C2C4, 0x4FDFF252, 0xD1BB67F1, 0xA6BC5767, 0x3FB506DD, 0x48B2364B,
     0xD80D2BDA, 0xAF0A1B4C, 0x36034AF6, 0x41047A60, 0xDF60EFC3, 0xA867DF55, 0x316E8EEF, 0x4669BE79,
     0xCB61B38C, 0xBC66831A, 0x256FD2A0, 0x5268E236, 0xCC0C7795, 0xBB0B4703, 0x220216B9, 0x5505262F,
     0xC5BA3BBE, 0xB2BD0B28, 0x2BB45A92, 0x5CB36A04, 0xC2D7FFA7, 0xB5D0CF31, 0x2CD99E8B, 0x5BDEAE1D] := by decide

theorem test_table_3 : (List.range 64).map (fun i => crcTable (BitVec.ofNat 8 (192 + i))) =
    [0x9B64C2B0, 0xEC63F226, 0x756AA39C, 0x026D930A, 0x9C0906A9, 0xEB0E363F, 0x72076785, 0x05005713,
     0x95BF4A82, 0xE2B87A14, 0x7BB12BAE, 0x0CB61B38, 0x92D28E9B, 0xE5D5BE0D, 0x7CDCEFB7, 0x0BDBDF21,
     0x86D3D2D4, 0xF1D4E242, 0x68DDB3F8, 0x1FDA836E, 0x81BE16CD, 0xF6B9265B, 0x6FB077E1, 0x18B74777,
     0x88085AE6, 0xFF0F6A70, 0x66063BCA, 0x11010B5C, 0x8F659EFF, 0xF862AE69, 0x616BFFD3, 0x166CCF45,
     0xA00AE278, 0xD70DD2EE, 0x4E048354, 0x3903B3C2, 0xA7672661, 0xD06016F7, 0x4969474D, 0x3E6E77DB,
     0xAED16A4A, 0xD9D65ADC, 0x40DF0B66, 0x37D83BF0, 0xA9BCAE53, 0xDEBB9EC5, 0x47B2CF7F, 0x30B5FFE9,
     0xBDBDF21C, 0xCABAC28A, 0x53B39330, 0x24B4A3A6, 0xBAD03605, 0xCDD70693, 0x54DE5729, 0x23D967BF,
     0xB3667A2E, 0xC4614AB8, 0x5D681B02, 0x2A6F2B94, 0xB40BBE37, 0xC30C8EA1, 0x5A05DF1B, 0x2D02EF8D] := by decide

/-! ## One step: the port, illegal words, resets -/

/-- A block with agent 0's commands and an order waiting. -/
def waiting (cs : List Transaction) (order : List Turn) : State :=
  { crc := 0x12345678, sticky := 0b010, cfg := little, port := { cmd := 0, opa := 0, opb := 0 }, issuer := 0, reply := none,
    agents := [cs, [{ cmd := 0x00000012, opa := 0, opb := 0 }]], order := order }

/-- CRC, STICKY and the reply after one step. -/
def stepped (s : State) : Option (Word32 × BitVec 3 × Option Reply) :=
  match step s with
  | .next t => some (t.crc, t.sticky, t.reply)
  | .fault _ => none
  | .refused _ => none

/-- 95_test_vectors.md section 2.1: STAT_CLR with N = 1 does not clear. -/
theorem test_illegal_statClr : stepped (waiting [⟨0x00000103, 0, 0⟩] [.agent 0]) =
    some (0x12345678, 0b011, some ⟨0, 0, 0x01⟩) := by decide

/-- 60_exceptions.md R162: CRC_FEED with N = 9 feeds nothing. -/
theorem test_illegal_feed : stepped (waiting [⟨0x00000911, 0xFFFF, 0⟩] [.agent 0]) =
    some (0x12345678, 0b011, some ⟨0, 0, 0x01⟩) := by decide

theorem test_second_agent_reads_crc : stepped (waiting [] [.agent 1]) =
    some (0x12345678, 0b010, some ⟨1, 0x12345678, 0x00⟩) := by decide

theorem test_reset_turn : stepped (waiting [] [.reset]) = some (0, 0, none) := by decide

theorem test_reset_cuts_command : stepped (waiting [⟨0x00000010, 5, 0⟩] [.resetDuring 0]) = some (0, 0, none) := by decide

/-- 95_test_vectors.md section 2.6: the first command after reset may be a CRC_FEED. -/
theorem test_first_command_after_reset : stepped (State.reset.withFetchWord 96 (0x61 <<< 32 + 0x00000111)) =
    some (0xE8B7BE43, 0, some ⟨0, 0xE8B7BE43, 0x00⟩) := by decide

/-! ## Host side: text, listings, the frame check image -/

theorem test_assemble_text : assembleText "crc_feed 4, 0x1 ; message id" = .ok [⟨0x00000411, 1, 0⟩] := by decide

theorem test_assemble_string : assembleText "CRC_FEED \"9\"" = .ok [⟨0x00000111, 0x39, 0⟩] := by decide

theorem test_assemble_rejects_count : assembleText "CRC_FEED 9, 1" = .error .countOutOfRange := by decide

theorem test_listing : listing ⟨0x00000411, 1, 0⟩ = "00000411 0000000000000001 0000000000000000" := by decide

theorem test_disassemble_illegal : disassemble ⟨0x00000911, 0xFFFF, 0⟩ = ".word 0x00000911" := by decide

theorem test_identifyingString : identifyingString little = "SFCB-1/LEN16/MSB_FIRST/HOST_BE=0" := by decide

/-- 95_test_vectors.md L1-8: the frame with opcode 2, message id 1 and payload "hello". -/
def helloFrame : Frame := ⟨0x80020005, 0, 1, 0, 0, 0x67CA0D54, [0x68, 0x65, 0x6C, 0x6C, 0x6F]⟩

theorem test_frame_image : checkImage little helloFrame =
    [0x80, 0x02, 0, 0, 0, 1, 0, 0, 0, 0, 0x68, 0x65, 0x6C, 0x6C, 0x6F] := by decide

set_option maxRecDepth 8000 in
theorem test_frame_passes : framePasses little helloFrame = true := by decide

/-- 95_test_vectors.md L1-8: the wire bytes of its CRC. -/
theorem test_frame_crc_bytes : wireBytes 4 (0x67CA0D54 : Word32) = [0x67, 0xCA, 0x0D, 0x54] := by decide

/-! ## Witnesses: each statement's hypotheses can be met, together -/

theorem witness_ResetGivesTheStatedValues : (waiting [] [.reset]).order = .reset :: [] := rfl

theorem witness_ResetInTheCommandOrder :
    (∃ c, (waiting [⟨0x00000010, 5, 0⟩] [.agent 0, .reset]).order = [.agent 0, .reset] ∧
      (waiting [⟨0x00000010, 5, 0⟩] [.agent 0, .reset]).nextOf 0 = some c ∧ decode c.cmd = .ok .crcInit) ∧
    (∃ c, (waiting [⟨0x00000012, 5, 0⟩] [.reset, .agent 0]).order = [.reset, .agent 0] ∧
      (waiting [⟨0x00000012, 5, 0⟩] [.reset, .agent 0]).nextOf 0 = some c ∧ decode c.cmd = .ok .crcRead) ∧
    (waiting [⟨0x00000012, 5, 0⟩] [.resetDuring 0]).order = [.resetDuring 0] :=
  ⟨⟨⟨0x00000010, 5, 0⟩, by decide⟩, ⟨⟨0x00000012, 5, 0⟩, by decide⟩, rfl⟩

theorem witness_SoftwareResetAndPowerLoss :
    (block little 9 0b111 0xFFFFFFFF00000000 0).port.opa.extractLsb 31 0 = 0 ∧
    (waiting [] [.powerLoss]).order = [.powerLoss] := by decide

theorem witness_StepRunsTheCommandOnThePort :
    (∃ c, (waiting [⟨0x00000811, 5, 0⟩] [.agent 0]).order = [.agent 0] ∧
      (waiting [⟨0x00000811, 5, 0⟩] [.agent 0]).nextOf 0 = some c ∧ decode c.cmd = .ok (.crcFeed 8)) ∧
    decodeTableWord 32 0x00000811 = some (.crcFeed 8) ∧ (waiting [] []).agents ≠ [] :=
  ⟨⟨⟨0x00000811, 5, 0⟩, by decide⟩, by decide⟩

/-- An illegal word issued by an agent: the hypotheses of IllegalOutcome, so of every clause about an illegal word. -/
theorem witness_IllegalWordsHaveNoOtherEffect : ∃ t : Transaction, (waiting [⟨0x00000911, 1, 2⟩] [.agent 0]).order = [.agent 0] ∧
    (waiting [⟨0x00000911, 1, 2⟩] [.agent 0]).nextOf 0 = some t ∧ t.cmd = 0x00000911 ∧ legal 0x00000911 = false :=
  ⟨⟨0x00000911, 1, 2⟩, by decide⟩

/-- For every statement with SoleWord: each of the nineteen words has another word with its OP. -/
theorem witness_SoleWord :
    ([0x00, 0x01, 0x02, 0x03, 0x10, 0x12, 0x13, 0x14, 0x20, 0x21, 0x22, 0x23, 0x24, 0x25, 0x26, 0x27, 0x30, 0x31, 0x32] : List Nat).all
      (fun w => (0x1000 + w) % 256 == w && (0x1000 + w) != w) = true := by decide

theorem witness_DecodedIffLegal : (decode 0x00000411).toOption = some (.crcFeed 4) ∧ (decode 0x00000911).toOption = none := by decide

/-- Each kind of reserved word, at the edges of the ranges of R57. -/
theorem witness_ReservedWordsAreIllegal :
    (0x00001000 : Word32).extractLsb 31 12 ≠ 0 ∧ (0x00000004 : Word32).extractLsb 7 0 ∉ listedOps ∧
    ((0x00000110 : Word32).extractLsb 7 0 ≠ 0x11 ∧ (0x00000110 : Word32).extractLsb 11 8 ≠ 0) ∧
    ((0x00000011 : Word32).extractLsb 7 0 = 0x11 ∧ ((0x00000011 : Word32).extractLsb 11 8).toNat = 0) ∧
    ((0x00000911 : Word32).extractLsb 7 0 = 0x11 ∧ 9 ≤ ((0x00000911 : Word32).extractLsb 11 8).toNat) := by decide

theorem witness_DecodeEncodeRoundTrip : (Instr.crcFeed 8).wf = true ∧ decode 0x00000111 = .ok (.crcFeed 1) := by decide

theorem witness_OpcodeTableRowsAreDisjoint : decode 0x00000032 = .ok .hdrLen ∧
    decode 0x00000033 = .error (.reservedOp 0x33) ∧ decode 0x00000011 = .error (.badCount 0) := by decide

theorem witness_EarlierErrorsChangeNoLaterCommand : Instr.hdrUnpack ≠ .statRd ∧ Instr.hdrUnpack ≠ .statClr := by decide

/-- A command that answers a next state and sets a STICKY bit beside one already set, and a reset turn. -/
theorem witness_StatClrAloneClearsSticky : ∃ t, exec .crcCheck (block little 1 0b010 2 0) = .next t ∧ Instr.crcCheck ≠ .statClr ∧ t.sticky = 0b110 ∧ (waiting [] [.reset]).order = [.reset] :=
  ⟨_, rfl, by decide⟩

theorem witness_StickyAccumulatesErrors : Instr.crcCheck ≠ .statClr ∧
    (waiting [⟨0x00000103, 0, 0⟩] [.agent 0]).nextOf 0 = some ⟨0x00000103, 0, 0⟩ ∧ decode 0x00000103 ≠ .ok .statClr := by decide

theorem witness_EveryCommandCompletes : (waiting [⟨0x00000103, 0, 0⟩] [.agent 0]).order = [.agent 0] ∧
    (waiting [⟨0x00000103, 0, 0⟩] [.agent 0]).nextOf 0 = some ⟨0x00000103, 0, 0⟩ := by decide

theorem witness_ConfigurationIsConstant : (∃ t, step (waiting [] [.reset]) = .next t) ∧
    ∃ t, exec .ident (block big 0 0 0 0) = .next t := ⟨⟨_, rfl⟩, _, rfl⟩

theorem witness_IdReadsIdentityAndConfiguration : ∃ t, step (waiting [⟨0x00000001, 0, 0⟩] [.agent 0]) = .next t := ⟨_, rfl⟩

theorem witness_CrcFeedFeedsItsBytes :
    (1 ≤ (1 : BitVec 4).toNat ∧ (1 : BitVec 4).toNat ≤ 8) ∧ (1 ≤ (8 : BitVec 4).toNat ∧ (8 : BitVec 4).toNat ≤ 8) ∧
    (0 : BitVec 4).toNat = 0 ∧ 8 < (9 : BitVec 4).toNat ∧
    ((0x00000911 : Word32).extractLsb 7 0 = 0x11 ∧ 8 < ((0x00000911 : Word32).extractLsb 11 8).toNat) ∧
    ((0x00001111 : Word32).extractLsb 7 0 = 0x11 ∧ (0x00001111 : Word32).extractLsb 31 12 ≠ 0) := by decide

theorem witness_CrcCheckComparesExactly :
    (block little 0xCBF43926 0 0xFFFFFFFFCBF43926 0).crc = (block little 0xCBF43926 0 0xFFFFFFFFCBF43926 0).port.opa.extractLsb 31 0 ∧
    (block little 0xCBF43926 0 0x2639F4CB 0).crc ≠ (block little 0xCBF43926 0 0x2639F4CB 0).port.opa.extractLsb 31 0 := by decide

theorem witness_CrcDetectsEveryChangedByte : (0x00 : Byte) ≠ 0x01 := by decide

theorem witness_ByteReversalAndWireBytes : (1 < 2 ∧ 3 < 4 ∧ 7 < 8) ∧ (8 ≤ 8 ∧ (0xFFFFFFFFFFFFFFFF : Word64).toNat < 256 ^ 8) ∧
    (0 ≤ 8 ∧ (0 : Word64).toNat < 256 ^ 0) ∧ ([1, 2, 3, 4, 5, 6, 7, 8] : List Byte).length ≤ 8 := by decide

theorem witness_NetworkOrderRoundTrips : (0xFFFFFFFF : Word64).toNat < 2 ^ 32 ∧ (0xFFFF : Word64).toNat < 2 ^ 16 := by decide

theorem witness_NativeStoreOfHton64GivesWireBytes : ([1, 2, 3, 4, 5, 6, 7, 8] : List Byte).length = 8 := by decide

theorem witness_PackUnpackRoundTrip : (0x00000000E0FF0000 : Word64).extractLsb 28 24 = 0 := by decide

theorem witness_UnpackPackRoundTrip :
    (reservedBitsClear little 0xE0FFFFFE = true ∧
      ((resOf .hdrUnpack (block little 0 0 0 0) 0xE0FFFFFE 0).extractLsb 15 0).toNat = little.maxInline) ∧
    (reservedBitsClear short 0xE0FFFE00 = true ∧ (0xE0FFFE00 : Word32).extractLsb 7 0 = 0 ∧
      ((resOf .hdrUnpack (block short 0 0 0 0) 0xE0FFFE00 0).extractLsb 15 0).toNat = short.maxInline) ∧
    reservedBitsClear lsb 0x07FF0000 = true ∧ little.hdrRev = .len16 ∧ little.flagOrder = .msbFirst := by decide

theorem witness_FrameOpcodeIsCarriedThrough : Instr.hdrUnpack = .hdrUnpack ∨ Instr.hdrUnpack = .hdrPack := .inl rfl

/-- A command that changes CRC, for the clauses about its writers; and one that reads it not. -/
theorem witness_CrcIsWrittenAndReadOnlyByItsUnit :
    (∃ t, exec (.crcFeed 1) (block little 0 0 0 0) = .next t ∧ t.crc ≠ (block little 0 0 0 0).crc) ∧
    (∃ t, (waiting [⟨0x00000911, 1, 0⟩] [.agent 0]).nextOf 0 = some ⟨0x00000911, 1, 0⟩ ∧ legal 0x00000911 = false ∧
      step (waiting [⟨0x00000911, 1, 0⟩] [.agent 0]) = .next t) ∧
    (∃ t, (∀ n, Instr.statClr ≠ .crcFeed n) ∧ exec .statClr (block little 3 0 0 0) = .next t) :=
  ⟨⟨_, rfl, by decide⟩, ⟨_, by decide, by decide, rfl⟩, ⟨_, by simp, rfl⟩⟩

/-- Steps that return each status: ILL, STRUCT with EXT, CRCMIS. -/
theorem witness_StatusBitsAndTheirSources :
    (∃ t, step (waiting [⟨0x00000004, 0, 0⟩] [.agent 0]) = .next t ∧ t.reply = some ⟨0, 0, 0x01⟩) ∧
    (∃ t, step (waiting [⟨0x00000030, 0x9F02FFFF, 0⟩] [.agent 0]) = .next t ∧ t.reply = some ⟨0, 0x000003009F02FFFF, 0x0A⟩) ∧
    (∃ t, step (waiting [⟨0x00000013, 1, 0⟩] [.agent 0]) = .next t ∧ t.reply = some ⟨0, 0, 0x04⟩) :=
  ⟨⟨_, rfl, by decide⟩, ⟨_, rfl, by decide⟩, ⟨_, rfl, by decide⟩⟩

/-- A state with the invariant whose reply reports an error, and a step from it. -/
theorem witness_EveryStepKeepsRepliesSound :
    ∃ t, RepliesSound { waiting [⟨0x00000013, 1, 0⟩] [.agent 0] with reply := some ⟨0, 5, 0x0A⟩ } ∧
      step { waiting [⟨0x00000013, 1, 0⟩] [.agent 0] with reply := some ⟨0, 5, 0x0A⟩ } = .next t :=
  ⟨_, ⟨by rintro _ ⟨⟩; decide, by rintro _ ⟨⟩; decide, by rintro _ ⟨⟩; decide, by rintro _ ⟨⟩; decide⟩, rfl⟩

theorem witness_OnlyTheListedOperandBitsMatter :
    (0xFFFFFFFFCBF43926 : Word64) &&& readsA little .crcCheck = 0x00000000CBF43926 &&& readsA little .crcCheck ∧
    (7 : Word64) &&& readsB .crcCheck = 0 &&& readsB .crcCheck ∧
    (0x1FF : Word64) &&& readsA short .hdrLen = 0xFF &&& readsA short .hdrLen := by decide

theorem witness_HostOrderMattersOnlyToConversions :
    Instr.endSwap64 ∉ [Instr.ident, .endProbe, .endHton64, .endNtoh64, .endHton32, .endNtoh32, .endHton16, .endNtoh16] ∧
    ∃ t, exec .endSwap64 (block big 0 0 1 0) = .next t := ⟨by decide, _, rfl⟩

theorem witness_RepeatedCommandsAreIdempotent : ∃ t, exec .crcCheck (block little 1 0 2 0) = .next t := ⟨_, rfl⟩

theorem witness_EachAgentKeepsItsOrder : ∃ t, (waiting [⟨1, 0, 0⟩, ⟨2, 0, 0⟩] [.agent 0]).agents[0]? = some [⟨1, 0, 0⟩, ⟨2, 0, 0⟩] ∧
    step (waiting [⟨1, 0, 0⟩, ⟨2, 0, 0⟩] [.agent 0]) = .next t := ⟨_, by decide, rfl⟩

/-- Agent 0 computes a CRC while agent 1 only reads. -/
theorem witness_ExclusiveCrcOwnershipSuffices :
    (∀ u ∈ (waiting [⟨0x00000010, 5, 0⟩, ⟨0x00000111, 7, 0⟩] [.agent 0, .agent 1, .agent 0]).order, ∃ j, u = .agent j) ∧
    (∀ (j : Nat) (q : List Transaction), j ≠ 0 →
      (waiting [⟨0x00000010, 5, 0⟩, ⟨0x00000111, 7, 0⟩] [.agent 0, .agent 1, .agent 0]).agents[j]? = some q →
      ∀ c ∈ q, writesCrc c.cmd = false) := by
  refine ⟨by simp [waiting], fun j q hj hq c hc => ?_⟩
  match j, hj with
  | 1, _ =>
    simp only [waiting, List.getElem?_cons_succ, List.getElem?_cons_zero, Option.some.injEq] at hq
    subst hq
    simp only [List.mem_singleton] at hc
    subst hc
    decide
  | j + 2, _ => simp [waiting] at hq

/-- The nine bytes "123456789". -/
def nineBytes : List Byte := [0x31, 0x32, 0x33, 0x34, 0x35, 0x36, 0x37, 0x38, 0x39]

/-- Numbers at the edge of 64 bits; CRC_FEED counts and string lengths 0, 1, 8 and 9 in R60 and R61. -/
theorem witness_AssemblerPlacesOperands :
    (2 ^ 64 - 1 < 2 ^ 64 ∧ 2 ^ 64 ≤ 2 ^ 64) ∧ Instr.crcTab.mnemonic = "CRC_TAB" ∧
    (1 ≤ 1 ∧ 1 ≤ 8) ∧ (1 ≤ 8 ∧ 8 ≤ 8) ∧ ((0 = 0 ∨ 8 < 0) ∧ (9 = 0 ∨ 8 < 9)) ∧
    (([] : List Byte).length = 0 ∧ ([0x31] : List Byte).length = 1) ∧
    (nineBytes.take 8).length = 8 ∧ 8 < nineBytes.length ∧ (0 < nineBytes.length / 8 ∧ nineBytes.length % 8 ≠ 0) := by decide

/-- CRC_FEED at the counts 0, 1, 8 and 9 (R60). -/
theorem test_assemble_feed_counts :
    assembleText "CRC_FEED 0, 5" = .error .countOutOfRange ∧ assembleText "CRC_FEED 1, 5" = .ok [⟨0x00000111, 5, 0⟩] ∧
    assembleText "CRC_FEED 8, 5" = .ok [⟨0x00000811, 5, 0⟩] ∧ assembleText "CRC_FEED 9, 5" = .error .countOutOfRange := by decide

/-- CRC_FEED with a string of 0, 1, 8 and 9 bytes (R60). -/
theorem test_assemble_feed_lengths :
    assembleText "CRC_FEED \"\"" = .error .countOutOfRange ∧ assembleText "CRC_FEED \"1\"" = .ok [⟨0x00000111, 0x31, 0⟩] ∧
    assembleText "CRC_FEED \"12345678\"" = .ok [⟨0x00000811, 0x3132333435363738, 0⟩] ∧
    assembleText "CRC_FEED \"123456789\"" = .error .countOutOfRange := by decide

/-- CRC_BYTES with 0, 1, 8 and 9 bytes (R61). -/
theorem test_assemble_bytes_lengths :
    assembleText "CRC_BYTES \"\"" = .ok [] ∧ assembleText "CRC_BYTES \"1\"" = .ok [⟨0x00000111, 0x31, 0⟩] ∧
    assembleText "CRC_BYTES \"12345678\"" = .ok [⟨0x00000811, 0x3132333435363738, 0⟩] ∧
    assembleText "CRC_BYTES \"123456789\"" = .ok [⟨0x00000811, 0x3132333435363738, 0⟩, ⟨0x00000111, 0x39, 0⟩] := by decide

/-- An illegal word, and legal words that read no operand, one and two. -/
theorem witness_DisassemblyAssemblesBack : legal 0x00000911 = false ∧ decode 0x00000000 = .ok .nop ∧
    decode 0x00000411 = .ok (.crcFeed 4) ∧ decode 0x00000031 = .ok .hdrPack := by decide

/-- CRC and STICKY after one step. -/
def crcAndSticky (s : State) : Option (Word32 × BitVec 3) := (stepped s).map fun r => (r.1, r.2.1)

/-- The step clause of CrcIsWrittenAndReadOnlyByItsUnit: one step of each kind that changes CRC or STICKY (a reset, a cut command, power
loss, CRC_INIT, an illegal word, HDR_UNPACK, CRC_CHECK, STAT_CLR), from CRC 0x12345678 and STICKY 0b010. -/
theorem witness_StepsThatChangeCrcOrSticky :
    crcAndSticky (waiting [] [.reset]) = some (0, 0) ∧
    crcAndSticky (waiting [⟨0x00000012, 0, 0⟩] [.resetDuring 0]) = some (0, 0) ∧
    crcAndSticky (waiting [] [.powerLoss]) = some (0, 0) ∧
    crcAndSticky (waiting [⟨0x00000010, 5, 0⟩] [.agent 0]) = some (5, 0b010) ∧
    crcAndSticky (waiting [⟨0x00000911, 0, 0⟩] [.agent 0]) = some (0x12345678, 0b011) ∧
    crcAndSticky { waiting [⟨0x00000030, 0x1F000000, 0⟩] [.agent 0] with sticky := 0 } = some (0x12345678, 0b010) ∧
    crcAndSticky (waiting [⟨0x00000013, 5, 0⟩] [.agent 0]) = some (0x12345678, 0b110) ∧
    crcAndSticky (waiting [⟨0x00000003, 0, 0⟩] [.agent 0]) = some (0x12345678, 0b000) := by decide

/-- A step with nothing to serve, and a passing turn (10_state.md R20, R24; assumption log entry 2). -/
theorem test_idle_steps_change_nothing :
    crcAndSticky (waiting [⟨0x00000010, 5, 0⟩] []) = some (0x12345678, 0b010) ∧
    crcAndSticky (waiting [] [.agent 0]) = some (0x12345678, 0b010) := by decide

end Sys2Proof.Tests
end

section
/-!
The inline length of a header (00_scope.md R9): LW, ESC and MAX_INLINE under each revision, one equation each,
so that a proof about headers rewrites with the revision and never unfolds them.
-/
namespace Sys2Proof

section Len8
variable {cfg : Cfg} (h : cfg.hdrRev = .len8)
include h

@[simp] theorem Cfg.lengthWidth_of_len8 : cfg.lengthWidth = 8 := by rw [Cfg.lengthWidth, h]

@[simp] theorem Cfg.esc_of_len8 : cfg.esc = 255 := by simp [Cfg.esc, Cfg.lengthWidth_of_len8 h]

@[simp] theorem Cfg.maxInline_of_len8 : cfg.maxInline = 254 := by rw [Cfg.maxInline, Cfg.esc_of_len8 h]

end Len8

section Len16
variable {cfg : Cfg} (h : cfg.hdrRev = .len16)
include h

@[simp] theorem Cfg.lengthWidth_of_len16 : cfg.lengthWidth = 16 := by rw [Cfg.lengthWidth, h]

@[simp] theorem Cfg.esc_of_len16 : cfg.esc = 65535 := by simp [Cfg.esc, Cfg.lengthWidth_of_len16 h]

@[simp] theorem Cfg.maxInline_of_len16 : cfg.maxInline = 65534 := by rw [Cfg.maxInline, Cfg.esc_of_len16 h]

end Len16

/-- Settles O38: ESC and MAX_INLINE are R9's own formulas, and their values follow by cases on the revision. -/
theorem escapeSentinelIsAllOnes : Obligations.EscapeSentinelIsAllOnes := by
  intro cfg
  refine ⟨rfl, rfl, ?_⟩
  cases h : cfg.hdrRev with
  | len8 => exact ⟨cfg.lengthWidth_of_len8 h, cfg.esc_of_len8 h, cfg.maxInline_of_len8 h⟩
  | len16 => exact ⟨cfg.lengthWidth_of_len16 h, cfg.esc_of_len16 h, cfg.maxInline_of_len16 h⟩

end Sys2Proof
end

section
/-!
How a step serves a turn, and what every command answers (10_state.md R28 to R30): it completes, accumulates its error bits
unless it is STAT_CLR, reads no earlier reply, and keeps the configuration that ID and END_PROBE show.
-/
namespace Sys2Proof.Machine

section Turns
variable {s : State} {k : Nat} {rest : List Turn} {c : Transaction}

/-- An agent's turn runs its next command. -/
theorem step_of_agent (ho : s.order = .agent k :: rest) (hc : s.nextOf k = some c) :
    step s = runCommand (s.accept k c rest) := by
  simp [step, serveTurn, ho, agentTurn, hc]

theorem step_of_reset (ho : s.order = .reset :: rest) : step s = .next (s.withOrder rest).applyReset := by
  simp [step, serveTurn, ho]

end Turns

theorem runCommand_of_decode_ok {s : State} {i : Instr} (h : decode s.port.cmd = .ok i) : runCommand s = exec i s := by
  simp [runCommand, h]

theorem runCommand_of_decode_error {s : State} {e : DecodeError} (h : decode s.port.cmd = .error e) :
    runCommand s = .next s.raiseIll := by
  simp [runCommand, h]

/-- Every command completes (70_reset_and_hazards.md R187): no arm faults or refuses, and CRC_FEED does neither in either
branch of its count check. -/
theorem exec_completes (i : Instr) (s : State) : ∃ s', exec i s = .next s' := by
  cases i with
  | crcFeed n =>
    by_cases hn : feedCount n = true
    · exact ⟨_, if_pos hn⟩
    · exact ⟨_, if_neg hn⟩
  | _ => exact ⟨_, rfl⟩

/-- R28, for one next state: it carries a reply, and its STICKY is `old` with that reply's error bits. -/
def Accumulated (old : BitVec 3) (t : State) : Prop :=
  ∃ r, t.reply = some r ∧ t.sticky = accumulate old r.st

theorem accumulated_finish (s : State) (res : Word64) (st : Byte) : Accumulated s.sticky (s.finish res st) :=
  ⟨_, rfl, rfl⟩

/-- A status with no error bit leaves STICKY, so such a command only answers. -/
theorem finish_stNone (s : State) (res : Word64) :
    s.finish res stNone = { s with reply := some { agent := s.issuer, res := res, st := stNone } } := by
  unfold State.finish
  rw [State.accumulate_stNone]

/-- R28: of the ways a command can end, only STAT_CLR's is not `State.finish`. -/
theorem exec_accumulated {i : Instr} {s t : State} (hi : i ≠ .statClr) (h : exec i s = .next t) :
    Accumulated s.sticky t := by
  obtain ⟨res, st, rfl⟩ | ⟨rfl, -⟩ | ⟨-, rfl⟩ | ⟨n, -, -, rfl⟩ := exec_cases i s t h
  · exact accumulated_finish s res st
  · exact absurd rfl hi
  · exact accumulated_finish (s.setCrc _) _ _
  · exact accumulated_finish (s.setCrc _) _ _

/-- R28 for the command on the port, illegal words among them. -/
theorem runCommand_accumulated (s : State) (hi : decode s.port.cmd ≠ .ok .statClr) :
    ∃ t, runCommand s = .next t ∧ Accumulated s.sticky t := by
  cases hd : decode s.port.cmd with
  | ok i =>
    obtain ⟨t, ht⟩ := exec_completes i s
    have hne : i ≠ .statClr := by rintro rfl; exact hi hd
    exact ⟨t, (runCommand_of_decode_ok hd).trans ht, exec_accumulated hne ht⟩
  | error e => exact ⟨_, runCommand_of_decode_error hd, accumulated_finish s 0 stIll⟩

/-- R30: both ways a command ends write a reply of their own over the one that stands there, and nothing else a command
computes reads it. -/
theorem exec_reply_irrelevant (i : Instr) (s : State) (r : Option Reply) : exec i { s with reply := r } = exec i s := by
  cases i <;> rfl

theorem runCommand_reply_irrelevant (s : State) (r : Option Reply) :
    runCommand { s with reply := r } = runCommand s := by
  unfold runCommand
  cases decode s.port.cmd with
  | ok i => exact exec_reply_irrelevant i s r
  | error e => rfl

theorem agentTurn_reply_irrelevant (k : Nat) (rest : List Turn) (s : State) (r : Option Reply) :
    agentTurn k rest { s with reply := r } = agentTurn k rest s := by
  have hnext : State.nextOf { s with reply := r } k = s.nextOf k := rfl
  unfold agentTurn
  rw [hnext]
  cases s.nextOf k with
  | none => rfl
  | some c => exact runCommand_reply_irrelevant (s.accept k c rest) r

/-- No turn reads the last reply: a command's completion, a reset and an idle step all write over it. -/
theorem step_reply_irrelevant (s : State) (r : Option Reply) : step { s with reply := r } = step s := by
  obtain ⟨crc, sticky, cfg, port, issuer, reply, agents, order⟩ := s
  cases order with
  | nil => rfl
  | cons turn rest =>
    cases turn with
    | agent k => exact agentTurn_reply_irrelevant k rest _ r
    | _ => rfl

/-- R29: a command's frame keeps Cfg, and no other kind of turn has an update that touches it. -/
theorem step_cfg {s t : State} (h : step s = .next t) : t.cfg = s.cfg := by
  obtain ⟨-, rfl⟩ | ⟨k, rest, -, -, rfl⟩ | ⟨k, rest, c, i, -, -, -, hx⟩ | ⟨k, rest, c, e, -, -, -, rfl⟩ | ⟨rest, -, rfl⟩ |
    ⟨k, rest, -, rfl⟩ := step_cases s t h
  case inr.inr.inl => exact (exec_frame i _ t hx).1
  all_goals rfl

/-- Three single bits above the field `lo`, read back at their own places. -/
theorem getLsbD_flagBits {n m : Nat} (hi : BitVec n) (a b c : Bool) (lo : BitVec m) :
    (hi ++ flagBit a ++ flagBit b ++ flagBit c ++ lo).getLsbD (m + 2) = a ∧
    (hi ++ flagBit a ++ flagBit b ++ flagBit c ++ lo).getLsbD (m + 1) = b ∧
    (hi ++ flagBit a ++ flagBit b ++ flagBit c ++ lo).getLsbD m = c := by
  refine ⟨?_, ?_, ?_⟩ <;> rw [BitVec.getLsbD_append] <;> simp [BitVec.getElem_append]

/-- The configuration bits of ID's word, above its version byte (40_control.md R71). -/
theorem idWord_configBits (cfg : Cfg) :
    (idWord cfg).getLsbD 10 = (cfg.flagOrder == .lsbFirst) ∧ (idWord cfg).getLsbD 9 = (cfg.hdrRev == .len16) ∧
      (idWord cfg).getLsbD 8 = cfg.hostBe :=
  getLsbD_flagBits ((0x53464342 : BitVec 32) ++ (0 : BitVec 21)) _ _ _ (0x01 : BitVec 8)

/-- A truth value as a result word (41_endian.md R81). -/
theorem zext64_flagBit (b : Bool) : zext64 (flagBit b) = if b then 1 else 0 := by
  cases b <;> rfl

end Sys2Proof.Machine
end

section
/-!
Commands whose word has no free field (30_encoding.md R53 to R56): all but CRC_FEED. Their OP alone gives the instruction,
so each has one legal word.
-/
namespace Sys2Proof

/-- A word with its OP, N and RSVD is that word. -/
theorem word_ext {v w : Word32} (hr : cmdRsvd v = cmdRsvd w) (hn : cmdN v = cmdN w) (ho : cmdOp v = cmdOp w) : v = w := by
  rw [← word_eq_fields v, hr, hn, ho, word_eq_fields]

section FixedCount
variable {i : Instr} (hi : ∀ n, i ≠ .crcFeed n)
include hi

/-- The opcode map reads N for CRC_FEED only. -/
theorem instrOfOp_of_ne_crcFeed {op : BitVec 8} {m : BitVec 4} (h : instrOfOp op m = some i) (n : BitVec 4) :
    instrOfOp op n = some i := by
  unfold instrOfOp at h ⊢
  split at h
  any_goals exact h
  -- CRC_FEED's row is the one left
  exact absurd (Option.some.inj h).symm (hi m)

theorem countInRange_of_ne_crcFeed (n : BitVec 4) : countInRange i n = (n == 0) := by
  cases i with
  | crcFeed m => exact absurd rfl (hi m)
  | _ => rfl

/-- Two legal words with one OP, that of a command other than CRC_FEED, are one word. -/
theorem eq_of_decode_ok_of_cmdOp_eq {v w : Word32} {j : Instr} (hw : decode w = .ok i) (hv : decode v = .ok j)
    (hop : cmdOp v = cmdOp w) : v = w := by
  obtain ⟨hwr, hwi, hwn⟩ := (decode_eq_ok w i).mp hw
  obtain ⟨hvr, hvi, hvn⟩ := (decode_eq_ok v j).mp hv
  have hij : i = j := Option.some.inj ((hop ▸ instrOfOp_of_ne_crcFeed hi hwi (cmdN v)).symm.trans hvi)
  subst hij
  rw [countInRange_of_ne_crcFeed hi, beq_iff_eq] at hwn hvn
  exact word_ext (hvr.trans hwr.symm) (hvn.trans hwn.symm) hop

end FixedCount

namespace Safety
open Machine

/-- 60_exceptions.md R162: what the decoder rejects takes the illegal-command outcome. -/
theorem illegalOutcome_of_decode_error {w : Word32} {e : DecodeError} (h : decode w = .error e) : IllegalOutcome w := by
  rintro s k rest c ho hc rfl
  rw [step_of_agent ho hc, runCommand_of_decode_error (s := s.accept k c rest) h]
  rfl

/-- A legal word of a command other than CRC_FEED is the sole word of that command. -/
theorem soleWord_of_decode_ok {w : Word32} {i : Instr} (hi : ∀ n, i ≠ .crcFeed n) (hw : decode w = .ok i) :
    SoleWord w i := by
  refine ⟨hw, fun v hop hne => ?_⟩
  cases hv : decode v with
  | ok j => exact absurd (eq_of_decode_ok_of_cmdOp_eq hi hw hv hop) hne
  | error e => exact illegalOutcome_of_decode_error hv

end Safety

end Sys2Proof
end

section
/-! The statements about the state and its outputs (10_state.md R28 to R31). -/
namespace Sys2Proof
open Machine Safety

/-- Settles O44: every ending but STAT_CLR's is an accumulation (`runCommand_accumulated`); STAT_RD's accumulates nothing,
and its word is the sole one with its OP. -/
theorem stickyAccumulatesErrors : Obligations.StickyAccumulatesErrors := by
  refine ⟨fun i s hi => ?_, fun s k rest c ho hc hd => ?_, fun s => ⟨_, rfl, rfl⟩, ?_, fun s => ?_⟩
  · obtain ⟨t, ht⟩ := exec_completes i s
    obtain ⟨r, hr, hs⟩ := exec_accumulated hi ht
    exact ⟨t, r, ht, hr, hs⟩
  · obtain ⟨t, ht, r, hr, hs⟩ := runCommand_accumulated (s.accept k c rest) hd
    exact ⟨t, r, (step_of_agent ho hc).trans ht, hr, hs⟩
  · exact soleWord_of_decode_ok (fun _ => Instr.noConfusion) rfl
  · exact congrArg Host.Outcome.next (finish_stNone s _)

/-- Settles O46: no update a step makes touches Cfg, and the two readbacks are bits of `idWord` and END_PROBE's result. -/
theorem configurationIsConstant : Obligations.ConfigurationIsConstant := by
  refine ⟨fun s t => step_cfg, fun i s t h => (exec_frame i s t h).1, fun s a b => ?_⟩
  have hid : resOf .ident s a b = idWord s.cfg := rfl
  have hprobe : resOf .endProbe s a b = zext64 (flagBit s.cfg.hostBe) := rfl
  obtain ⟨hflagOrder, hhdrRev, hhostBe⟩ := idWord_configBits s.cfg
  rw [hid, hprobe]
  exact ⟨hflagOrder, hhdrRev, hhostBe, zext64_flagBit _⟩

/-- Settles O52: every command completes with a reply to its issuer, and `reply` is written by every step and read by none. -/
theorem outputsDoNotPersist : Obligations.OutputsDoNotPersist := by
  refine ⟨fun i s => ?_, exec_reply_irrelevant, step_reply_irrelevant⟩
  obtain ⟨t, ht⟩ := exec_completes i s
  obtain ⟨-, -, -, -, -, res, st, hr⟩ := exec_frame i s t ht
  exact ⟨t, res, st, ht, hr⟩

/-- Settles O1: the values of `State.reset` are its definition's, and a reset turn is `State.applyReset`. -/
theorem resetGivesTheStatedValues : Obligations.ResetGivesTheStatedValues :=
  ⟨⟨rfl, rfl, rfl⟩, fun _ _ ho => ⟨_, step_of_reset ho, rfl, rfl, rfl⟩⟩

end Sys2Proof
end

section
/-!
Masks of operand and result bits (20_memory.md R42, R49): what two words that agree under a mask have in common, and which
results are 0 above a width.
-/
namespace Sys2Proof

section Agree
variable {m a b : Word64} (h : a &&& m = b &&& m)
include h

/-- Words that agree under a mask have the same bit wherever the mask has one. -/
theorem getLsbD_eq_of_and_eq {k : Nat} (hm : m.getLsbD k = true) : a.getLsbD k = b.getLsbD k := by
  have hk := congrArg (BitVec.getLsbD · k) h
  simpa [hm] using hk

/-- Words that agree under a mask have the same slice wherever the mask is all ones. -/
theorem extractLsb'_eq_of_and_eq {start len : Nat} (hm : m.extractLsb' start len = BitVec.allOnes len) :
    a.extractLsb' start len = b.extractLsb' start len := by
  have hslice := congrArg (BitVec.extractLsb' start len) h
  rwa [BitVec.extractLsb'_and, BitVec.extractLsb'_and, hm, BitVec.and_allOnes, BitVec.and_allOnes] at hslice

end Agree

/-- The wire bytes of a value are its low bytes and nothing else (00_scope.md R14). -/
theorem wireBytes_congr {w n : Nat} {v u : BitVec w} (h : ∀ k < n, byteAt v k = byteAt u k) :
    wireBytes n v = wireBytes n u := by
  induction n with
  | zero => rfl
  | succ n ih => rw [wireBytes, wireBytes, h n n.lt_succ_self, ih fun k hk => h k (hk.trans n.lt_succ_self)]

namespace Safety

@[simp] theorem getLsbD_lowBits (n k : Nat) : (lowBits n).getLsbD k = (decide (k < 64) && decide (k < n)) := by
  simp [lowBits, BitVec.getLsbD_ofNat]

theorem byteAt_lowBits {n k : Nat} (hk : k < n) (hn : n ≤ 8) : byteAt (lowBits (8 * n)) k = BitVec.allOnes 8 := by
  apply BitVec.eq_of_getLsbD_eq
  intro j hj
  have hmask : 8 * k + j < 8 * n := by omega
  have hword : 8 * k + j < 64 := by omega
  rw [getLsbD_byteAt, getLsbD_lowBits, BitVec.getLsbD_allOnes]
  simp [hj, hmask, hword]

theorem lowBits_64 : lowBits 64 = BitVec.allOnes 64 := rfl

/-- A word whose bits from `n` on are 0 has nothing outside the mask of its low `n` bits. -/
theorem and_not_lowBits {v : Word64} {n : Nat} (h : ∀ k, n ≤ k → v.getLsbD k = false) : v &&& ~~~ lowBits n = 0 := by
  apply BitVec.eq_of_getLsbD_eq
  intro k hk
  rcases Nat.lt_or_ge k n with hlt | hge
  · simp [hk, hlt]
  · simp [h k hge]

theorem and_not_lowBits_64 (v : Word64) : v &&& ~~~ lowBits 64 = 0 := and_not_lowBits v.getLsbD_of_ge

/-- A result zero-extended from `w` bits (20_memory.md R49) sets none above them. -/
theorem zext64_and_not_lowBits {w : Nat} (v : BitVec w) : zext64 v &&& ~~~ lowBits w = 0 :=
  and_not_lowBits fun k hk => by simp [zext64, BitVec.getLsbD_of_ge v k hk]

/-- The field word ends at RSVNZ, bit 41 (43_header.md R133). -/
theorem fieldWord_and_not_lowBits (cfg : Cfg) (h : HeaderFields) : fieldWord cfg h &&& ~~~ lowBits 42 = 0 :=
  and_not_lowBits fun k hk => by
    unfold fieldWord
    simp (disch := omega) only [BitVec.getLsbD_append, if_neg]
    simp

end Safety

section FieldWordHigh
variable {f g : Word64} (h : f &&& 0xFFFF0000 = g &&& 0xFFFF0000)
include h

/-- Of the field word the packed header reads FIN, RSP, MASK and OPCODE, which lie in bits 31:16 (43_header.md R136). -/
theorem packResult_eq_of_and_eq (cfg : Cfg) (l : Word64) : packResult cfg f l = packResult cfg g l := by
  have hfin : fwFin f = fwFin g := getLsbD_eq_of_and_eq h (by decide)
  have hrsp : fwRsp f = fwRsp g := getLsbD_eq_of_and_eq h (by decide)
  have hmask : fwMask f = fwMask g := getLsbD_eq_of_and_eq h (by decide)
  have hop : fwOpcode f = fwOpcode g := extractLsb'_eq_of_and_eq h (by decide)
  simp only [packResult, packHeader, packByte0, hfin, hrsp, hmask, hop]

theorem fwRsv_eq_of_and_eq : fwRsv f = fwRsv g := extractLsb'_eq_of_and_eq h (by decide)

end FieldWordHigh

/-- HDR_LEN reads the LW bits of the length field (43_header.md R137). -/
theorem fwLen_eq_of_and_eq {cfg : Cfg} {f g : Word64}
    (h : f &&& Safety.lowBits cfg.lengthWidth = g &&& Safety.lowBits cfg.lengthWidth) : fwLen cfg f = fwLen cfg g := by
  unfold fwLen
  cases hrev : cfg.hdrRev with
  | len8 =>
    rw [Cfg.lengthWidth_of_len8 hrev] at h
    exact congrArg (BitVec.setWidth 16) (extractLsb'_eq_of_and_eq h (by decide))
  | len16 =>
    rw [Cfg.lengthWidth_of_len16 hrev] at h
    exact extractLsb'_eq_of_and_eq h (by decide)

end Sys2Proof
end

section
/-! Which operand bits a command reads and which result bits it sets (20_memory.md R42). -/
namespace Sys2Proof.Machine
open Safety

section Operands
variable {s : State} {p : Transaction}

theorem opa64_withPort (h : p.opa &&& lowBits 64 = s.port.opa &&& lowBits 64) :
    opa64 { s with port := p } = opa64 s := by
  rwa [lowBits_64, BitVec.and_allOnes, BitVec.and_allOnes] at h

theorem opb64_withPort (h : p.opb &&& lowBits 64 = s.port.opb &&& lowBits 64) :
    opb64 { s with port := p } = opb64 s := by
  rwa [lowBits_64, BitVec.and_allOnes, BitVec.and_allOnes] at h

theorem opa32_withPort (h : p.opa &&& lowBits 32 = s.port.opa &&& lowBits 32) :
    opa32 { s with port := p } = opa32 s :=
  extractLsb'_eq_of_and_eq h (by decide)

theorem opa16_withPort (h : p.opa &&& lowBits 16 = s.port.opa &&& lowBits 16) :
    opa16 { s with port := p } = opa16 s :=
  extractLsb'_eq_of_and_eq h (by decide)

theorem opa8_withPort (h : p.opa &&& lowBits 8 = s.port.opa &&& lowBits 8) :
    opa8 { s with port := p } = opa8 s :=
  extractLsb'_eq_of_and_eq h (by decide)

/-- The value CRC_FEED computes reads the fed bytes of OPA only. -/
theorem fedCrc_withPort {n : Nat} (hn : n ≤ 8) (h : p.opa &&& lowBits (8 * n) = s.port.opa &&& lowBits (8 * n)) :
    fedCrc n { s with port := p } = fedCrc n s :=
  congrArg (calculate s.crc) (wireBytes_congr fun _ hk => extractLsb'_eq_of_and_eq h (byteAt_lowBits hk hn))

end Operands

/-- R42's second and third columns: the bits outside them reach neither the next state nor the outputs. -/
theorem exec_withPort {i : Instr} {s : State} {p : Transaction}
    (ha : p.opa &&& readsA s.cfg i = s.port.opa &&& readsA s.cfg i) (hb : p.opb &&& readsB i = s.port.opb &&& readsB i) :
    ∃ t, exec i s = .next t ∧ exec i { s with port := p } = .next { t with port := p } := by
  cases i with
  | nop | ident | statRd | statClr | crcRead | endProbe => exact ⟨_, rfl, rfl⟩
  | crcInit | crcCheck | endHton32 | endNtoh32 | hdrUnpack =>
    have hop := opa32_withPort ha
    refine ⟨_, rfl, ?_⟩
    simp only [exec, execCrcInit, execCrcCheck, execEndHton32, execEndNtoh32, execHdrUnpack, hop]
    rfl
  | crcFeed n =>
    by_cases hn : feedCount n = true
    · have hrange : 1 ≤ n.toNat ∧ n.toNat ≤ 8 := by simpa [feedCount] using hn
      rw [readsA, if_pos hrange] at ha
      have hcrc := fedCrc_withPort hrange.2 ha
      refine ⟨_, if_pos hn, ?_⟩
      simp only [exec, execCrcFeed, if_pos hn, hcrc]
      rfl
    · exact ⟨_, if_neg hn, if_neg hn⟩
  | crcTab =>
    have hop := opa8_withPort ha
    refine ⟨_, rfl, ?_⟩
    simp only [exec, execCrcTab, hop]
    rfl
  | endSwap64 | endHton64 | endNtoh64 =>
    have hop := opa64_withPort ha
    refine ⟨_, rfl, ?_⟩
    simp only [exec, execEndSwap64, execEndHton64, execEndNtoh64, hop]
    rfl
  | endHton16 | endNtoh16 =>
    have hop := opa16_withPort ha
    refine ⟨_, rfl, ?_⟩
    simp only [exec, execEndHton16, execEndNtoh16, hop]
    rfl
  | hdrPack =>
    have hpack : packResult s.cfg p.opa s.port.opb = packResult s.cfg s.port.opa s.port.opb :=
      packResult_eq_of_and_eq ha _ _
    have hrsv : fwRsv p.opa = fwRsv s.port.opa := fwRsv_eq_of_and_eq ha
    have hopb := opb64_withPort hb
    refine ⟨_, rfl, ?_⟩
    simp only [exec, execHdrPack, hopb]
    simp only [opa64, opb64, hpack, hrsv]
    rfl
  | hdrLen =>
    have hlen : fwLen s.cfg p.opa = fwLen s.cfg s.port.opa := fwLen_eq_of_and_eq ha
    have hopb := opb64_withPort hb
    refine ⟨_, rfl, ?_⟩
    simp only [exec, execHdrLen, selectLength, hopb]
    simp only [opa64, hlen]
    rfl

/-- R42's last column, and R49: a command's RES is 0 outside the bits it writes. -/
theorem exec_res_width (i : Instr) (s : State) :
    ∃ t r, exec i s = .next t ∧ t.reply = some r ∧ r.res &&& ~~~ writesRes i = 0 := by
  cases i with
  | nop => exact ⟨_, _, rfl, rfl, BitVec.zero_and⟩
  | ident | endSwap64 | endHton64 | endNtoh64 | hdrLen => exact ⟨_, _, rfl, rfl, and_not_lowBits_64 _⟩
  | crcFeed n =>
    by_cases hn : feedCount n = true
    · exact ⟨_, _, if_pos hn, rfl, zext64_and_not_lowBits _⟩
    · exact ⟨_, _, if_neg hn, rfl, BitVec.zero_and⟩
  | hdrUnpack => exact ⟨_, _, rfl, rfl, fieldWord_and_not_lowBits _ _⟩
  | _ => exact ⟨_, _, rfl, rfl, zext64_and_not_lowBits _⟩

/-- Settles O50: the two halves of R42's table, each a case split over the commands, speak of the one next state. -/
theorem onlyTheListedOperandBitsMatter : Obligations.OnlyTheListedOperandBitsMatter := by
  intro i s p ha hb
  obtain ⟨t, ht, hp⟩ := exec_withPort ha hb
  obtain ⟨u, r, hu, hr, hres⟩ := exec_res_width i s
  obtain rfl := Host.Outcome.next.inj (ht.symm.trans hu)
  exact ⟨t, r, ht, hp, hr, hres⟩

end Sys2Proof.Machine
end

section
/-!
Which words are commands (30_encoding.md R54 to R57): the decoder's own test is `legal(CMD)`, and the words that pass it are
the 27 of the list.
-/
namespace Sys2Proof

/-- The opcode map finds a command under its own OP only (R55). -/
theorem opcode_of_instrOfOp {op : BitVec 8} {n : BitVec 4} {i : Instr} (h : instrOfOp op n = some i) : i.opcode = op := by
  unfold instrOfOp at h
  split at h <;> cases h
  all_goals
    rename_i hop
    exact BitVec.eq_of_toNat_eq hop.symm

theorem countInRange_iff (i : Instr) (n : BitVec 4) :
    countInRange i n = true ↔ if i.opcode = 0x11 then 1 ≤ n.toNat ∧ n.toNat ≤ 8 else n = 0 := by
  cases i with
  | crcFeed m => simp [countInRange, feedCount, Instr.opcode]
  | _ => exact beq_iff_eq

namespace Safety

theorem opcode_mem_listedOps (i : Instr) : i.opcode ∈ listedOps := by
  cases i <;> simp [Instr.opcode, listedOps]

/-- The OP values the opcode map knows are the listed ones, whatever N is (R55). -/
theorem exists_instrOfOp_iff (op : BitVec 8) (n : BitVec 4) : (∃ i, instrOfOp op n = some i) ↔ op ∈ listedOps := by
  constructor
  · rintro ⟨i, hi⟩
    exact opcode_of_instrOfOp hi ▸ opcode_mem_listedOps i
  · have hlisted : ∀ o ∈ listedOps, ∃ i, instrOfOp o n = some i := by simp [listedOps, instrOfOp]
    exact hlisted op

/-- The decoder accepts a word under R56's three conditions, each of one field. -/
theorem exists_decode_ok_iff (w : Word32) :
    (∃ i, decode w = .ok i) ↔ cmdRsvd w = 0 ∧ cmdOp w ∈ listedOps ∧
      (if cmdOp w = 0x11 then 1 ≤ (cmdN w).toNat ∧ (cmdN w).toNat ≤ 8 else cmdN w = 0) := by
  constructor
  · rintro ⟨i, hi⟩
    obtain ⟨hrsvd, hop, hn⟩ := (decode_eq_ok w i).mp hi
    rw [countInRange_iff, opcode_of_instrOfOp hop] at hn
    exact ⟨hrsvd, (exists_instrOfOp_iff _ _).mp ⟨i, hop⟩, hn⟩
  · rintro ⟨hrsvd, hlisted, hn⟩
    obtain ⟨i, hop⟩ := (exists_instrOfOp_iff _ (cmdN w)).mpr hlisted
    rw [← opcode_of_instrOfOp hop, ← countInRange_iff] at hn
    exact ⟨i, (decode_eq_ok w i).mpr ⟨hrsvd, hop, hn⟩⟩

/-- The decoder's test is the spec's `legal(CMD)` (R56). -/
theorem legal_iff_exists_decode_ok (w : Word32) : legal w = true ↔ ∃ i, decode w = .ok i := by
  rw [exists_decode_ok_iff]
  change (cmdRsvd w == 0 && listedOps.contains (cmdOp w) &&
    (if cmdOp w == 0x11 then decide (1 ≤ (cmdN w).toNat ∧ (cmdN w).toNat ≤ 8) else cmdN w == 0)) = true ↔ _
  by_cases hop : cmdOp w = 0x11 <;> simp [hop, and_assoc]

/-- The 27 words are what the three conditions leave: RSVD is 0, and OP and N are
CRC_FEED's with 1 to 8 or another listed OP with 0. -/
theorem exists_decode_ok_iff_mem_legalWords (w : Word32) : (∃ i, decode w = .ok i) ↔ w ∈ legalWords := by
  constructor
  · intro h
    obtain ⟨hrsvd, hlisted, hn⟩ := (exists_decode_ok_iff w).mp h
    have hfeed : ∀ n : BitVec 4, 1 ≤ n.toNat ∧ n.toNat ≤ 8 → (0 : BitVec 20) ++ n ++ (0x11 : BitVec 8) ∈ legalWords := by decide
    have hother : ∀ op ∈ listedOps, op ≠ 0x11 → (0 : BitVec 20) ++ (0 : BitVec 4) ++ op ∈ legalWords := by decide
    rw [← word_eq_fields w, hrsvd]
    by_cases hop : cmdOp w = 0x11
    · rw [if_pos hop] at hn
      exact hop ▸ hfeed _ hn
    · rw [if_neg hop] at hn
      exact hn ▸ hother _ hlisted hop
  · have hlegal : legalWords.all legal = true := by decide
    exact fun hw => (legal_iff_exists_decode_ok w).mp (List.all_eq_true.mp hlegal w hw)

/-- R57: what is no command is rejected by name and takes the illegal-command outcome. -/
theorem rejected_of_not_exists_decode_ok {w : Word32} (h : ¬ ∃ i, decode w = .ok i) :
    (∃ e, decode w = .error e) ∧ IllegalOutcome w := by
  cases hd : decode w with
  | ok i => exact absurd ⟨i, hd⟩ h
  | error e => exact ⟨⟨e, rfl⟩, illegalOutcome_of_decode_error hd⟩

end Safety
end Sys2Proof
end

section
/-! The statements about legal and reserved words (30_encoding.md R54, R56, R57). -/
namespace Sys2Proof
open Safety

/-- Settles O6: R56's conditions field by field, then the words they leave. -/
theorem decodedIffLegal : Obligations.DecodedIffLegal :=
  ⟨exists_decode_ok_iff, fun _ h => (rejected_of_not_exists_decode_ok h).2, rfl, by decide,
    exists_decode_ok_iff_mem_legalWords⟩

/-- Settles O7: each kind of reserved word breaks one of R56's conditions. -/
theorem reservedWordsAreIllegal : Obligations.ReservedWordsAreIllegal := by
  intro w (hw : cmdRsvd w ≠ 0 ∨ cmdOp w ∉ listedOps ∨ (cmdOp w ≠ 0x11 ∧ cmdN w ≠ 0) ∨
    (cmdOp w = 0x11 ∧ ((cmdN w).toNat = 0 ∨ 9 ≤ (cmdN w).toNat)))
  refine rejected_of_not_exists_decode_ok fun hok => ?_
  obtain ⟨hrsvd, hlisted, hn⟩ := (exists_decode_ok_iff w).mp hok
  rcases hw with hrsvd' | hunlisted | ⟨hop, hn'⟩ | ⟨hop, hn'⟩
  · exact hrsvd' hrsvd
  · exact hunlisted hlisted
  · rw [if_neg hop] at hn
    exact hn' hn
  · rw [if_pos hop] at hn
    omega

end Sys2Proof
end

section
/-!
The control commands (40_control.md R70 to R73): the fixed fields of ID's word, and why an accumulation clears no STICKY bit.
-/
namespace Sys2Proof.Machine

/-- R71: "SFCB", the reserved zeros and the version byte stand in ID's word whatever the three configuration bits are. -/
theorem idWord_fixedFields (cfg : Cfg) :
    (idWord cfg).extractLsb 63 32 = 0x53464342 ∧ (idWord cfg).extractLsb 31 11 = 0 ∧ (idWord cfg).extractLsb 7 0 = 0x01 := by
  unfold idWord
  generalize flagBit (cfg.flagOrder == .lsbFirst) = order, flagBit (cfg.hdrRev == .len16) = rev, flagBit cfg.hostBe = be
  revert order rev be
  decide

/-- R28: OR-ing error bits into STICKY clears none. -/
theorem Accumulated.keeps {old : BitVec 3} {t : State} (h : Accumulated old t) : old &&& t.sticky = old := by
  obtain ⟨r, -, hsticky⟩ := h
  rw [hsticky, accumulate]
  ext i
  simpa using Or.inl

end Sys2Proof.Machine
end

section
/-! The statements about NOP, ID, STAT_RD and STAT_CLR (40_control.md R70 to R73). -/
namespace Sys2Proof
open Machine Safety

/-- Settles O14: a command but STAT_CLR accumulates (`exec_accumulated`), and accumulating keeps every bit. -/
theorem statClrAloneClearsSticky : Obligations.StatClrAloneClearsSticky :=
  ⟨soleWord_of_decode_ok (fun _ => Instr.noConfusion) rfl, fun _ => rfl,
    fun _ _ _ h hi => (exec_accumulated hi h).keeps, fun _ _ ho => ⟨_, step_of_reset ho, rfl⟩⟩

/-- Settles O11: the status 0 leaves STICKY, so only the reply is written. -/
theorem nopDoesNothing : Obligations.NopDoesNothing :=
  ⟨soleWord_of_decode_ok (fun _ => Instr.noConfusion) rfl, fun s => congrArg Host.Outcome.next (finish_stNone s 0)⟩

/-- Settles O12: the result is `idWord`, its 64 bits read off field by field, and no step touches Cfg. -/
theorem idReadsIdentityAndConfiguration : Obligations.IdReadsIdentityAndConfiguration := by
  refine ⟨soleWord_of_decode_ok (fun _ => Instr.noConfusion) rfl, ⟨idWord, fun s => ?_, fun cfg => ?_⟩, fun _ _ => step_cfg⟩
  · exact congrArg Host.Outcome.next (finish_stNone s (idWord s.cfg))
  · obtain ⟨hname, hzero, hversion⟩ := idWord_fixedFields cfg
    obtain ⟨hflagOrder, hhdrRev, hhostBe⟩ := idWord_configBits cfg
    exact ⟨hname, hzero, hflagOrder, hhdrRev, hhostBe, hversion⟩

/-- Settles O13: the status 0 leaves STICKY, whose value from before the command is the result. -/
theorem statRdReadsSticky : Obligations.StatRdReadsSticky :=
  ⟨soleWord_of_decode_ok (fun _ => Instr.noConfusion) rfl,
    fun s => congrArg Host.Outcome.next (finish_stNone s (zext64 s.sticky))⟩

end Sys2Proof
end

section
/-!
The endian unit (41_endian.md R81 to R88): what each conversion to network order leaves, and that the conversion back is, at
each width, the same function under another word.
-/
namespace Sys2Proof.Machine
variable (s : State)

/-- R83: the result is `convert64` of OPA, and the status 0 leaves STICKY. -/
theorem exec_endHton64 : exec .endHton64 s = .next { s with
    reply := some { agent := s.issuer, res := convert64 s.cfg s.port.opa, st := stNone } } :=
  congrArg Host.Outcome.next (finish_stNone s _)

/-- R85: the result is `convert32` of OPA[31:0], zero-extended. -/
theorem exec_endHton32 : exec .endHton32 s = .next { s with
    reply := some { agent := s.issuer, res := zext64 (convert32 s.cfg (s.port.opa.extractLsb 31 0)), st := stNone } } :=
  congrArg Host.Outcome.next (finish_stNone s _)

/-- R87: the result is `convert16` of OPA[15:0], zero-extended. -/
theorem exec_endHton16 : exec .endHton16 s = .next { s with
    reply := some { agent := s.issuer, res := zext64 (convert16 s.cfg (s.port.opa.extractLsb 15 0)), st := stNone } } :=
  congrArg Host.Outcome.next (finish_stNone s _)

theorem exec_endNtoh64_eq_endHton64 : exec .endNtoh64 s = exec .endHton64 s := rfl

theorem exec_endNtoh32_eq_endHton32 : exec .endNtoh32 s = exec .endHton32 s := rfl

theorem exec_endNtoh16_eq_endHton16 : exec .endNtoh16 s = exec .endHton16 s := rfl

end Sys2Proof.Machine
end

section
/-! The statements about END_PROBE and the six host/network conversions (41_endian.md R81, R83 to R88). -/
namespace Sys2Proof
open Machine Safety

/-- Settles O25: the status 0 leaves STICKY, and the zero-extended HOST_BE bit is 1 or 0. -/
theorem endProbeReadsHostOrder : Obligations.EndProbeReadsHostOrder := by
  refine ⟨soleWord_of_decode_ok (fun _ => Instr.noConfusion) rfl, fun s => ?_⟩
  rw [← zext64_flagBit]
  exact congrArg Host.Outcome.next (finish_stNone s _)

/-- Settles O27: `exec_endHton64`, whose `convert64` is the choice by HOST_BE. -/
theorem endHton64Converts : Obligations.EndHton64Converts :=
  ⟨soleWord_of_decode_ok (fun _ => Instr.noConfusion) rfl, exec_endHton64⟩

/-- Settles O28: END_NTOH64 does what END_HTON64 does. -/
theorem endNtoh64Converts : Obligations.EndNtoh64Converts :=
  ⟨soleWord_of_decode_ok (fun _ => Instr.noConfusion) rfl,
    fun s => (exec_endNtoh64_eq_endHton64 s).trans (exec_endHton64 s)⟩

/-- Settles O29: `exec_endHton32`, whose `convert32` is the choice by HOST_BE. -/
theorem endHton32Converts : Obligations.EndHton32Converts :=
  ⟨soleWord_of_decode_ok (fun _ => Instr.noConfusion) rfl, exec_endHton32⟩

/-- Settles O30: END_NTOH32 does what END_HTON32 does. -/
theorem endNtoh32Converts : Obligations.EndNtoh32Converts :=
  ⟨soleWord_of_decode_ok (fun _ => Instr.noConfusion) rfl,
    fun s => (exec_endNtoh32_eq_endHton32 s).trans (exec_endHton32 s)⟩

/-- Settles O31: `exec_endHton16`, whose `convert16` is the choice by HOST_BE. -/
theorem endHton16Converts : Obligations.EndHton16Converts :=
  ⟨soleWord_of_decode_ok (fun _ => Instr.noConfusion) rfl, exec_endHton16⟩

/-- Settles O32: END_NTOH16 does what END_HTON16 does. -/
theorem endNtoh16Converts : Obligations.EndNtoh16Converts :=
  ⟨soleWord_of_decode_ok (fun _ => Instr.noConfusion) rfl,
    fun s => (exec_endNtoh16_eq_endHton16 s).trans (exec_endHton16 s)⟩

end Sys2Proof
end

section
/-!
The CRC unit's commands (42_crc.md R101, R105, R107 to R109): what each leaves, and the table construction as an iteration.
-/
namespace Sys2Proof

/-- R101: shifts in a row are one shift iterated. -/
theorem crcShifts_eq_iterate (k : Nat) (c : Word32) : crcShifts k c = crcShift^[k] c := by
  induction k generalizing c with
  | zero => rfl
  | succ k ih => exact ih (crcShift c)

/-- R101: a table entry is the index folded through eight shifts. -/
theorem crcTable_eq_foldl (i : Byte) : crcTable i = (List.range 8).foldl (fun c _ => crcShift c) (i.setWidth 32) := by
  rw [List.foldl_const, List.length_range]
  exact crcShifts_eq_iterate 8 _

/-- Zero-extension leaves the low half as it was (00_scope.md R13). -/
@[simp] theorem extractLsb_zext64 (v : Word32) : (zext64 v).extractLsb 31 0 = v :=
  (BitVec.extractLsb'_setWidth_of_le (by decide)).trans BitVec.extractLsb'_eq_self

namespace Machine

/-- R105: only the accumulator and the reply are written. -/
theorem exec_crcInit (s : State) : exec .crcInit s = .next { s with
    crc := opa32 s, reply := some { agent := s.issuer, res := zext64 (opa32 s), st := stNone } } :=
  congrArg Host.Outcome.next (finish_stNone (s.setCrc (opa32 s)) _)

/-- R107: the reply is the accumulator. -/
theorem exec_crcRead (s : State) : exec .crcRead s = .next { s with
    reply := some { agent := s.issuer, res := zext64 s.crc, st := stNone } } :=
  congrArg Host.Outcome.next (finish_stNone s _)

/-- R109: the reply is the table entry. -/
theorem exec_crcTab (s : State) : exec .crcTab s = .next { s with
    reply := some { agent := s.issuer, res := zext64 (crcTable (opa8 s)), st := stNone } } :=
  congrArg Host.Outcome.next (finish_stNone s _)

/-- R108 on a match: the status is 0, which leaves STICKY. -/
theorem exec_crcCheck_of_eq {s : State} (h : s.crc = opa32 s) : exec .crcCheck s = .next { s with
    reply := some { agent := s.issuer, res := 1, st := stNone } } := by
  have hmatch : exec .crcCheck s = .next (s.finish 1 stNone) := by
    rw [exec, execCrcCheck, ← h, beq_self_eq_true, bne_self_eq_false]
    rfl
  exact hmatch.trans (congrArg Host.Outcome.next (finish_stNone s 1))

/-- R108 on a mismatch: the status has CRCMIS, which STICKY takes over. -/
theorem exec_crcCheck_of_ne {s : State} (h : s.crc ≠ opa32 s) : exec .crcCheck s = .next (s.finish 0 stCrcmis) := by
  rw [exec, execCrcCheck, beq_false_of_ne h, bne_iff_ne.mpr h]
  rfl

end Machine
end Sys2Proof
end

section
/-! The statements about CRC_INIT, CRC_READ, CRC_CHECK and CRC_TAB (42_crc.md R105, R107 to R109). -/
namespace Sys2Proof
open Machine Safety

/-- Settles O15: `exec_crcInit`, which reads OPA[31:0] and nothing above it. -/
theorem crcInitLoadsTheSeed : Obligations.CrcInitLoadsTheSeed :=
  ⟨soleWord_of_decode_ok (fun _ => Instr.noConfusion) rfl, exec_crcInit⟩

/-- Settles O17: `exec_crcRead`, whose result after reset is the reset value 0. -/
theorem crcReadReadsTheAccumulator : Obligations.CrcReadReadsTheAccumulator :=
  ⟨soleWord_of_decode_ok (fun _ => Instr.noConfusion) rfl, exec_crcRead, rfl⟩

/-- Settles O18: the two outcomes of the comparison; the value CRC_READ returned is the accumulator zero-extended, whose low
half is the accumulator. -/
theorem crcCheckComparesExactly : Obligations.CrcCheckComparesExactly := by
  refine ⟨soleWord_of_decode_ok (fun _ => Instr.noConfusion) rfl, fun _ => exec_crcCheck_of_eq,
    fun _ => exec_crcCheck_of_ne, fun s b => ?_⟩
  have hread : resOf .crcRead s 0 0 = zext64 s.crc := rfl
  have hmatch : s.crc = opa32 (withOperands s (zext64 s.crc) b) := (extractLsb_zext64 s.crc).symm
  rw [hread, resOf, exec_crcCheck_of_eq hmatch]
  rfl

/-- Settles O19: the table is `crcTable`, each entry of which is the fold of R101's shift. -/
theorem crcTabReadsTheTable : Obligations.CrcTabReadsTheTable :=
  ⟨soleWord_of_decode_ok (fun _ => Instr.noConfusion) rfl, crcTable, exec_crcTab, crcTable_eq_foldl⟩

end Sys2Proof
end

section
/-!
The layouts of the header unit (43_header.md R132, R133, R136), field by field. Header operand, field word and packed header
all have the opcode in bits 23:16, so each is read as `hi ++ opcode ++ lo`.
-/
namespace Sys2Proof

/-- A slice inside a slice is a slice. -/
theorem extractLsb'_extractLsb' {w : Nat} (x : BitVec w) {a m start len : Nat} (h : start + len ≤ m) :
    (x.extractLsb' a m).extractLsb' start len = x.extractLsb' (a + start) len := by
  ext k hk
  have hin : start + k < m := by omega
  simp [hin, Nat.add_assoc]

/-- A bit above the low part of a word is a bit of its high part. -/
theorem getLsbD_append_of_le {n m k : Nat} {x : BitVec n} {y : BitVec m} (h : m ≤ k) :
    (x ++ y).getLsbD k = x.getLsbD (k - m) := by
  rw [BitVec.getLsbD_append, if_neg (Nat.not_lt.mpr h)]

theorem getLsbD_append_flagBit {n : Nat} (x : BitVec n) (b : Bool) : (x ++ flagBit b).getLsbD 0 = b := by
  simp [BitVec.getElem_append]

section Opcode
variable {n : Nat} (hi : BitVec n) (o : Byte) (lo : BitVec 16)

theorem extractLsb_append_opcode : (hi ++ o ++ lo).extractLsb 23 16 = o :=
  (BitVec.extractLsb'_append_eq_of_le (by decide)).trans BitVec.extractLsb'_append_eq_right

theorem extractLsb_append_low : (hi ++ o ++ lo).extractLsb 15 0 = lo :=
  BitVec.extractLsb'_append_eq_right

theorem extractLsb'_append_high {start : Nat} (len : Nat) (h : 24 ≤ start) :
    (hi ++ o ++ lo).extractLsb' start len = hi.extractLsb' (start - 24) len := by
  rw [BitVec.extractLsb'_append_eq_of_le (by omega), BitVec.extractLsb'_append_eq_of_le (by omega), Nat.sub_sub]

theorem getLsbD_append_high {k : Nat} (h : 24 ≤ k) : (hi ++ o ++ lo).getLsbD k = hi.getLsbD (k - 24) := by
  rw [getLsbD_append_of_le (by omega), getLsbD_append_of_le (by omega), Nat.sub_sub]

end Opcode

/-- FW[63:24], all that stands above the opcode (R133). -/
def fieldWordHigh (cfg : Cfg) (h : HeaderFields) : BitVec 40 :=
  (0 : BitVec 22) ++ flagBit h.rsvnz ++ flagBit (h.ext cfg) ++ h.pad ++ flagBit h.fin ++ flagBit h.rsp ++ flagBit h.mask ++ h.rsv

section FieldWord
variable (cfg : Cfg) (h : HeaderFields)

theorem fieldWord_eq_append : fieldWord cfg h = fieldWordHigh cfg h ++ h.opcode ++ h.len := rfl

@[simp] theorem fieldWord_len : (fieldWord cfg h).extractLsb 15 0 = h.len :=
  BitVec.extractLsb'_append_eq_right

@[simp] theorem fieldWord_opcode : (fieldWord cfg h).extractLsb 23 16 = h.opcode :=
  extractLsb_append_opcode _ h.opcode h.len

@[simp] theorem fieldWord_rsv : (fieldWord cfg h).extractLsb 28 24 = h.rsv :=
  (extractLsb'_append_high _ h.opcode h.len 5 (by decide)).trans BitVec.extractLsb'_append_eq_right

theorem fieldWord_flags : ((fieldWord cfg h).getLsbD 31, (fieldWord cfg h).getLsbD 30, (fieldWord cfg h).getLsbD 29) =
    (h.fin, h.rsp, h.mask) := by
  unfold fieldWord
  simp only [getLsbD_append_high, Nat.reduceLeDiff, Nat.reduceSub]
  obtain ⟨hfin, hrsp, hmask⟩ := Machine.getLsbD_flagBits _ h.fin h.rsp h.mask h.rsv
  exact Prod.ext hfin (Prod.ext hrsp hmask)

@[simp] theorem fieldWord_pad : (fieldWord cfg h).extractLsb 39 32 = h.pad := by
  unfold fieldWord BitVec.extractLsb
  simp (disch := decide) only [BitVec.extractLsb'_append_eq_of_le]
  exact BitVec.extractLsb'_append_eq_right

theorem fieldWord_ext : (fieldWord cfg h).getLsbD 40 = h.ext cfg := by
  unfold fieldWord
  simp (disch := decide) only [getLsbD_append_of_le]
  exact getLsbD_append_flagBit _ _

theorem fieldWord_rsvnz : (fieldWord cfg h).getLsbD 41 = h.rsvnz := by
  unfold fieldWord
  simp (disch := decide) only [getLsbD_append_of_le]
  exact getLsbD_append_flagBit _ _

@[simp] theorem fieldWord_zeros : (fieldWord cfg h).extractLsb 63 42 = 0 := by
  unfold fieldWord BitVec.extractLsb
  simp (disch := decide) only [BitVec.extractLsb'_append_eq_of_le]
  exact BitVec.extractLsb'_eq_self

theorem HeaderFields.rsvnz_eq_decide : h.rsvnz = decide (h.rsv ≠ 0) := by
  simp [HeaderFields.rsvnz, bne, beq_eq_decide]

end FieldWord

/-! The fields of the header on OPA[31:0] (R132, R134). -/
section Unpack
variable (cfg : Cfg) (x : Word64)

theorem unpackHeader_opcode : (unpackHeader cfg (x.extractLsb 31 0)).opcode = x.extractLsb 23 16 :=
  BitVec.extractLsb'_extractLsb'_of_le (by decide)

theorem unpackHeader_rsv : (unpackHeader cfg (x.extractLsb 31 0)).rsv = match cfg.flagOrder with
    | .msbFirst => x.extractLsb 28 24
    | .lsbFirst => x.extractLsb 31 27 := by
  unfold unpackHeader
  cases cfg.flagOrder with
  | msbFirst | lsbFirst =>
    exact (extractLsb'_extractLsb' _ (by decide)).trans (BitVec.extractLsb'_extractLsb'_of_le (by decide))

theorem unpackHeader_flags :
    ((unpackHeader cfg (x.extractLsb 31 0)).fin, (unpackHeader cfg (x.extractLsb 31 0)).rsp,
      (unpackHeader cfg (x.extractLsb 31 0)).mask) = match cfg.flagOrder with
    | .msbFirst => (x.getLsbD 31, x.getLsbD 30, x.getLsbD 29)
    | .lsbFirst => (x.getLsbD 24, x.getLsbD 25, x.getLsbD 26) := by
  unfold unpackHeader
  cases cfg.flagOrder with
  | msbFirst | lsbFirst => simp

theorem unpackHeader_len : (unpackHeader cfg (x.extractLsb 31 0)).len = match cfg.hdrRev with
    | .len16 => x.extractLsb 15 0
    | .len8 => (x.extractLsb 15 8).setWidth 16 := by
  unfold unpackHeader
  cases cfg.hdrRev with
  | len16 =>
    exact (BitVec.extractLsb'_append_extractLsb'_eq_extractLsb' rfl).trans (BitVec.extractLsb'_extractLsb'_of_le (by decide))
  | len8 => exact congrArg (BitVec.setWidth 16) (BitVec.extractLsb'_extractLsb'_of_le (start := 8) (len := 8) (by decide))

theorem unpackHeader_pad : (unpackHeader cfg (x.extractLsb 31 0)).pad = match cfg.hdrRev with
    | .len16 => 0
    | .len8 => x.extractLsb 7 0 := by
  unfold unpackHeader
  cases cfg.hdrRev with
  | len16 => rfl
  | len8 => exact BitVec.extractLsb'_extractLsb'_of_le (by decide)

end Unpack

/-- RES[63:24] of HDR_PACK: the extended-length flag in bit 32 and header byte 0 (R136). -/
def packHigh (cfg : Cfg) (f l : Word64) : BitVec 40 :=
  (0 : BitVec 31) ++ flagBit (needsExtended cfg l) ++ packByte0 cfg f

/-- RES[15:0] of HDR_PACK: the inline length, and under LEN8 the PAD byte 0 below it (R136). -/
def packLow (cfg : Cfg) (l : Word64) : BitVec 16 :=
  match cfg.hdrRev with
  | .len16 => inlineLength cfg l
  | .len8 => (inlineLength cfg l).extractLsb 7 0 ++ (0 : BitVec 8)

section Pack
variable (cfg : Cfg) (f l : Word64)

theorem packHeader_eq_append : packHeader cfg f l = packByte0 cfg f ++ fwOpcode f ++ packLow cfg l := by
  unfold packHeader packLow
  cases cfg.hdrRev with
  | len16 => rfl
  | len8 => exact BitVec.append_assoc

theorem packResult_eq_append : packResult cfg f l = packHigh cfg f l ++ fwOpcode f ++ packLow cfg l := by
  apply BitVec.eq_of_toNat_eq
  rw [packResult, packHeader_eq_append, zext64, BitVec.toNat_setWidth_of_le (by decide)]
  simp only [packHigh, BitVec.toNat_append, Nat.shiftLeft_or_distrib, ← Nat.shiftLeft_add, Nat.or_assoc]
  simp

@[simp] theorem packResult_opcode : (packResult cfg f l).extractLsb 23 16 = f.extractLsb 23 16 := by
  rw [packResult_eq_append]
  exact extractLsb_append_opcode _ _ _

theorem packResult_ext : (packResult cfg f l).getLsbD 32 = needsExtended cfg l := by
  rw [packResult_eq_append, packHigh]
  simp (disch := decide) only [getLsbD_append_of_le]
  exact getLsbD_append_flagBit _ _

@[simp] theorem packResult_zeros : (packResult cfg f l).extractLsb 63 33 = 0 := by
  refine (BitVec.extractLsb'_setWidth_of_le (by decide)).trans ?_
  ext
  simp

/-- Header byte 0 stands in RES[31:24]. -/
theorem packResult_byte0 : (packResult cfg f l).extractLsb 31 24 = packByte0 cfg f := by
  rw [packResult_eq_append]
  exact (extractLsb'_append_high _ _ _ 8 (by decide)).trans BitVec.extractLsb'_append_eq_right

theorem packByte0_of_msbFirst (h : cfg.flagOrder = .msbFirst) :
    (packByte0 cfg f).getLsbD 7 = fwFin f ∧ (packByte0 cfg f).getLsbD 6 = fwRsp f ∧ (packByte0 cfg f).getLsbD 5 = fwMask f ∧
      (packByte0 cfg f).extractLsb' 0 5 = 0 := by
  simp only [packByte0, h]
  generalize fwFin f = fin, fwRsp f = rsp, fwMask f = mask
  revert fin rsp mask
  decide

theorem packByte0_of_lsbFirst (h : cfg.flagOrder = .lsbFirst) :
    (packByte0 cfg f).getLsbD 0 = fwFin f ∧ (packByte0 cfg f).getLsbD 1 = fwRsp f ∧ (packByte0 cfg f).getLsbD 2 = fwMask f ∧
      (packByte0 cfg f).extractLsb' 3 5 = 0 := by
  simp only [packByte0, h]
  generalize fwFin f = fin, fwRsp f = rsp, fwMask f = mask
  revert fin rsp mask
  decide

theorem packResult_low : (packResult cfg f l).extractLsb 15 0 = packLow cfg l := by
  rw [packResult_eq_append]
  exact extractLsb_append_low _ _ _

/-- The flags and RSV of the packed header, at their places of R132. -/
theorem packResult_flags : match cfg.flagOrder with
    | .msbFirst => (packResult cfg f l).getLsbD 31 = fwFin f ∧ (packResult cfg f l).getLsbD 30 = fwRsp f ∧
        (packResult cfg f l).getLsbD 29 = fwMask f ∧ (packResult cfg f l).extractLsb 28 24 = 0
    | .lsbFirst => (packResult cfg f l).getLsbD 24 = fwFin f ∧ (packResult cfg f l).getLsbD 25 = fwRsp f ∧
        (packResult cfg f l).getLsbD 26 = fwMask f ∧ (packResult cfg f l).extractLsb 31 27 = 0 := by
  have hbit {k : Nat} (hk : k < 8) : (packResult cfg f l).getLsbD (24 + k) = (packByte0 cfg f).getLsbD k := by
    rw [← packResult_byte0 cfg f l]
    simp [hk]
  have hslice {start len : Nat} (h : start + len ≤ 8) :
      (packResult cfg f l).extractLsb' (24 + start) len = (packByte0 cfg f).extractLsb' start len := by
    rw [← packResult_byte0 cfg f l]
    exact (extractLsb'_extractLsb' _ h).symm
  cases h : cfg.flagOrder with
  | msbFirst =>
    obtain ⟨hfin, hrsp, hmask, hrsv⟩ := packByte0_of_msbFirst cfg f h
    exact ⟨(hbit (by decide)).trans hfin, (hbit (by decide)).trans hrsp, (hbit (by decide)).trans hmask,
      (hslice (start := 0) (by decide)).trans hrsv⟩
  | lsbFirst =>
    obtain ⟨hfin, hrsp, hmask, hrsv⟩ := packByte0_of_lsbFirst cfg f h
    exact ⟨(hbit (by decide)).trans hfin, (hbit (by decide)).trans hrsp, (hbit (by decide)).trans hmask,
      (hslice (start := 3) (by decide)).trans hrsv⟩

end Pack

section Length
variable (cfg : Cfg) (l : Word64)

theorem Cfg.esc_lt : cfg.esc < 65536 := by
  cases h : cfg.hdrRev with
  | len8 => rw [cfg.esc_of_len8 h]; decide
  | len16 => rw [cfg.esc_of_len16 h]; decide

/-- R136: the length field holds ESC for an extended length, and the length itself, which fits, otherwise. -/
theorem inlineLength_toNat :
    (inlineLength cfg l).toNat = if needsExtended cfg l then cfg.esc else l.toNat := by
  have hesc := cfg.esc_lt
  unfold inlineLength needsExtended
  by_cases h : cfg.esc ≤ l.toNat
  · simp [h, Nat.mod_eq_of_lt hesc]
  · have hl : l.toNat < 65536 := by omega
    simp [h, Nat.mod_eq_of_lt hl]

/-- ESC is the largest inline length field (R136). -/
theorem inlineLength_le_esc : (inlineLength cfg l).toNat ≤ cfg.esc := by
  rw [inlineLength_toNat, needsExtended]
  simp only [decide_eq_true_eq]
  split
  · exact le_rfl
  · omega

/-- The inline length and PAD of the packed header, at their places of R132. -/
theorem packResult_length (f : Word64) : match cfg.hdrRev with
    | .len16 => ((packResult cfg f l).extractLsb 15 0).toNat = (inlineLength cfg l).toNat
    | .len8 => ((packResult cfg f l).extractLsb 15 8).toNat = (inlineLength cfg l).toNat ∧
        (packResult cfg f l).extractLsb 7 0 = 0 := by
  have hlow := packResult_low cfg f l
  cases h : cfg.hdrRev with
  | len16 =>
    simp only [packLow, h] at hlow
    exact congrArg BitVec.toNat hlow
  | len8 =>
    simp only [packLow, h] at hlow
    have hslice {start len : Nat} (hs : start + len ≤ 16) : (packResult cfg f l).extractLsb' start len =
        ((inlineLength cfg l).extractLsb 7 0 ++ (0 : BitVec 8)).extractLsb' start len := by
      rw [← hlow]
      exact (BitVec.extractLsb'_extractLsb'_of_le hs).symm
    have hlen : (packResult cfg f l).extractLsb 15 8 = (inlineLength cfg l).extractLsb 7 0 :=
      (hslice (by decide)).trans BitVec.extractLsb'_append_eq_left
    have hfit := inlineLength_le_esc cfg l
    rw [cfg.esc_of_len8 h] at hfit
    refine ⟨?_, (hslice (by decide)).trans BitVec.extractLsb'_append_eq_right⟩
    rw [hlen, BitVec.extractLsb_toNat]
    exact Nat.mod_eq_of_lt (by omega)

/-- R137: the length field is read as a number of LW bits. -/
theorem fwLen_toNat (f : Word64) : (fwLen cfg f).toNat = match cfg.hdrRev with
    | .len16 => (f.extractLsb 15 0).toNat
    | .len8 => (f.extractLsb 7 0).toNat := by
  unfold fwLen
  cases cfg.hdrRev with
  | len16 => rfl
  | len8 => exact BitVec.toNat_setWidth_of_le (by decide)

end Length

/-! What of a header operand and of a field word does not depend on the opcode byte (R138). -/
section OpcodeByte
variable (hi : BitVec 40) (lo : BitVec 16)

/-- The opcode byte of a header goes to the opcode field and to no other. -/
theorem unpackHeader_of_opcode (cfg : Cfg) :
    ∃ h : HeaderFields, ∀ o : Byte, unpackHeader cfg ((hi ++ o ++ lo).extractLsb 31 0) = { h with opcode := o } := by
  have hbyte0 (o : Byte) : ((hi ++ o ++ lo).extractLsb 31 0).extractLsb 31 24 = hi.extractLsb' 0 8 :=
    (BitVec.extractLsb'_extractLsb'_of_le (by decide)).trans (extractLsb'_append_high hi o lo 8 (by decide))
  have hbyte1 (o : Byte) : ((hi ++ o ++ lo).extractLsb 31 0).extractLsb 23 16 = o :=
    (BitVec.extractLsb'_extractLsb'_of_le (by decide)).trans (extractLsb_append_opcode hi o lo)
  have hbyte2 (o : Byte) : ((hi ++ o ++ lo).extractLsb 31 0).extractLsb 15 8 = lo.extractLsb' 8 8 :=
    (BitVec.extractLsb'_extractLsb'_of_le (by decide)).trans (BitVec.extractLsb'_append_eq_of_add_le (by decide))
  have hbyte3 (o : Byte) : ((hi ++ o ++ lo).extractLsb 31 0).extractLsb 7 0 = lo.extractLsb' 0 8 :=
    (BitVec.extractLsb'_extractLsb'_of_le (by decide)).trans (BitVec.extractLsb'_append_eq_of_add_le (by decide))
  refine ⟨unpackHeader cfg ((hi ++ (0 : Byte) ++ lo).extractLsb 31 0), fun o => ?_⟩
  simp only [unpackHeader, hbyte0, hbyte1, hbyte2, hbyte3]

/-- Header byte 0 is packed from bits above the opcode. -/
theorem packByte0_of_opcode (cfg : Cfg) (o o' : Byte) : packByte0 cfg (hi ++ o ++ lo) = packByte0 cfg (hi ++ o' ++ lo) := by
  simp only [packByte0, fwFin, fwRsp, fwMask, getLsbD_append_high, Nat.reduceLeDiff]

theorem fwRsv_of_opcode (o : Byte) : fwRsv (hi ++ o ++ lo) = hi.extractLsb 4 0 :=
  extractLsb'_append_high hi o lo 5 (by decide)

end OpcodeByte

end Sys2Proof
end

section
/-! What the header commands leave (43_header.md R134, R136, R137), and that their outputs carry the opcode through (R138). -/
namespace Sys2Proof.Machine
open Safety

/-- R165: STRUCT alone of the two header flags reaches STICKY. -/
theorem errorBits_headerStatus (struct ext : Bool) :
    errorBits (headerStatus struct ext) = if struct then 0b010 else 0b000 := by
  revert struct ext
  decide

theorem finish_headerStatus (s : State) (res : Word64) (P Q : Prop) [Decidable P] [Decidable Q] :
    s.finish res (headerStatus (decide P) (decide Q)) = { s with
      sticky := s.sticky ||| (if P then 0b010 else 0b000),
      reply := some { agent := s.issuer, res := res, st := (if P then 0x02 else 0x00) ||| (if Q then 0x08 else 0x00) } } := by
  rw [State.finish, accumulate, errorBits_headerStatus]
  simp only [headerStatus, flagIf, decide_eq_true_eq, stStruct, stExt, stNone]

theorem exec_hdrUnpack (s : State) : exec .hdrUnpack s = .next (s.finish
    (fieldWord s.cfg (unpackHeader s.cfg (opa32 s)))
    (headerStatus (decide ((unpackHeader s.cfg (opa32 s)).rsv ≠ 0))
      (decide ((unpackHeader s.cfg (opa32 s)).len.toNat = s.cfg.esc)))) := by
  rw [← HeaderFields.rsvnz_eq_decide]
  rfl

theorem exec_hdrPack (s : State) : exec .hdrPack s = .next (s.finish
    (packResult s.cfg s.port.opa s.port.opb)
    (headerStatus (decide (s.port.opa.extractLsb 28 24 ≠ 0)) (decide (s.cfg.esc ≤ s.port.opb.toNat)))) := by
  rw [decide_not]
  rfl

/-- EXT has no sticky bit (10_state.md R27). -/
theorem finish_ext (s : State) (res : Word64) (c : Bool) :
    s.finish res (flagIf c stExt) = { s with reply := some { agent := s.issuer, res := res, st := flagIf c stExt } } := by
  have hsticky : accumulate s.sticky (flagIf c stExt) = s.sticky := by cases c <;> exact BitVec.or_zero
  unfold State.finish
  rw [hsticky]

theorem exec_hdrLen (s : State) : exec .hdrLen s = .next { s with
    reply := some {
      agent := s.issuer,
      res := if (fwLen s.cfg s.port.opa).toNat = s.cfg.esc then s.port.opb else BitVec.ofNat 64 (fwLen s.cfg s.port.opa).toNat,
      st := if (fwLen s.cfg s.port.opa).toNat = s.cfg.esc then 0x08 else 0x00 } } := by
  refine congrArg Host.Outcome.next ((finish_ext s _ _).trans ?_)
  by_cases h : (fwLen s.cfg s.port.opa).toNat = s.cfg.esc
  · simp [h, selectLength, flagIf, opa64, opb64, stExt]
  · simp [h, selectLength, flagIf, opa64, stNone, zext64, BitVec.ofNat_toNat]

section Outputs
variable (s : State) (a b : Word64)

theorem resOf_hdrUnpack : resOf .hdrUnpack s a b = fieldWord s.cfg (unpackHeader s.cfg (a.extractLsb 31 0)) := rfl

theorem stOf_hdrUnpack : stOf .hdrUnpack s a b =
    headerStatus (unpackHeader s.cfg (a.extractLsb 31 0)).rsvnz ((unpackHeader s.cfg (a.extractLsb 31 0)).ext s.cfg) := rfl

theorem resOf_hdrPack : resOf .hdrPack s a b = packResult s.cfg a b := rfl

theorem stOf_hdrPack : stOf .hdrPack s a b = headerStatus (fwRsv a != 0) (needsExtended s.cfg b) := rfl

end Outputs

/-- R138 for one command: for every opcode, RES has it in bits 23:16, between the same bits, and ST is the same. -/
def CarriesOpcode (i : Instr) : Prop :=
  ∀ (s : State) (hi : BitVec 40) (lo : BitVec 16) (b : Word64), ∃ (hi' : BitVec 40) (lo' : BitVec 16) (st : Byte),
    ∀ o : Byte, resOf i s (hi ++ o ++ lo) b = hi' ++ o ++ lo' ∧ stOf i s (hi ++ o ++ lo) b = st

theorem carriesOpcode_hdrUnpack : CarriesOpcode .hdrUnpack := by
  intro s hi lo b
  obtain ⟨h, hh⟩ := unpackHeader_of_opcode hi lo s.cfg
  refine ⟨fieldWordHigh s.cfg h, h.len, headerStatus h.rsvnz (h.ext s.cfg), fun o => ?_⟩
  rw [resOf_hdrUnpack, stOf_hdrUnpack, hh o]
  exact ⟨fieldWord_eq_append _ _, rfl⟩

theorem carriesOpcode_hdrPack : CarriesOpcode .hdrPack := by
  intro s hi lo b
  refine ⟨packHigh s.cfg (hi ++ (0 : Byte) ++ lo) b, packLow s.cfg b,
    headerStatus (hi.extractLsb 4 0 != 0) (needsExtended s.cfg b), fun o => ?_⟩
  have hop : fwOpcode (hi ++ o ++ lo) = o := extractLsb_append_opcode hi o lo
  rw [resOf_hdrPack, stOf_hdrPack, packResult_eq_append, fwRsv_of_opcode, hop, packHigh, packByte0_of_opcode hi lo s.cfg o 0]
  exact ⟨rfl, rfl⟩

end Sys2Proof.Machine
end

section
/-! The statements about HDR_UNPACK, HDR_PACK and HDR_LEN (43_header.md R134, R136 to R138). -/
namespace Sys2Proof
open Machine Safety

/-- Settles O35: `exec_hdrUnpack`, whose field word and header are read off field by field. -/
theorem hdrUnpackGivesTheFieldWord : Obligations.HdrUnpackGivesTheFieldWord := by
  refine ⟨soleWord_of_decode_ok (fun _ => Instr.noConfusion) rfl, fun s => ⟨_, _, _, unpackHeader_rsv s.cfg s.port.opa,
    unpackHeader_len s.cfg s.port.opa, ?_, fieldWord_len _ _, ?_, fieldWord_rsv _ _, ?_, ?_, fieldWord_ext _ _, ?_,
    fieldWord_zeros _ _⟩⟩
  · exact (exec_hdrUnpack s).trans (congrArg Host.Outcome.next (finish_headerStatus s _ _ _))
  · exact (fieldWord_opcode _ _).trans (unpackHeader_opcode s.cfg s.port.opa)
  · exact (fieldWord_flags _ _).trans (unpackHeader_flags s.cfg s.port.opa)
  · exact (fieldWord_pad _ _).trans (unpackHeader_pad s.cfg s.port.opa)
  · exact (fieldWord_rsvnz _ _).trans (HeaderFields.rsvnz_eq_decide _)

/-- Settles O36: `exec_hdrPack`, whose result is read off field by field; the length field is `inlineLength`. -/
theorem hdrPackPacksTheHeader : Obligations.HdrPackPacksTheHeader := by
  refine ⟨soleWord_of_decode_ok (fun _ => Instr.noConfusion) rfl, fun s => ⟨_, _, _, rfl,
    inlineLength_toNat s.cfg s.port.opb, ?_, packResult_flags s.cfg s.port.opa s.port.opb, packResult_opcode _ _ _,
    packResult_length _ _ _, packResult_ext _ _ _, packResult_zeros _ _ _⟩⟩
  rw [exec_hdrPack, finish_headerStatus]
  simp only [decide_eq_true_eq]

/-- Settles O37: `exec_hdrLen`, whose length field is the LW bits of the revision. -/
theorem hdrLenSelectsTheLength : Obligations.HdrLenSelectsTheLength :=
  ⟨soleWord_of_decode_ok (fun _ => Instr.noConfusion) rfl, fun s => ⟨_, fwLen_toNat s.cfg s.port.opa, exec_hdrLen s⟩⟩

/-- Settles O41: every opcode is carried between the same bits, with the same status. -/
theorem frameOpcodeIsCarriedThrough : Obligations.FrameOpcodeIsCarriedThrough := by
  intro s hi lo o o' b i h
  have hcarries : CarriesOpcode i := by
    rcases h with rfl | rfl
    · exact carriesOpcode_hdrUnpack
    · exact carriesOpcode_hdrPack
  obtain ⟨hi', lo', st, hcarry⟩ := hcarries s hi lo b
  obtain ⟨hres, hst⟩ := hcarry o
  obtain ⟨hres', hst'⟩ := hcarry o'
  rw [hres, hres', hst, hst']
  have hhigh (o : Byte) : (hi' ++ o ++ lo').extractLsb 63 24 = hi' :=
    (extractLsb'_append_high hi' o lo' 40 (by decide)).trans BitVec.extractLsb'_eq_self
  exact ⟨extractLsb_append_opcode hi' o lo', (hhigh o).trans (hhigh o').symm,
    (extractLsb_append_low hi' o lo').trans (extractLsb_append_low hi' o' lo').symm, rfl⟩

end Sys2Proof
end

section
/-! Nothing a command does but STAT_RD and STAT_CLR depends on STICKY (60_exceptions.md R161). -/
namespace Sys2Proof.Machine

/-- R161: the accumulator value, RES and ST that a command finishes with are the same for every STICKY. -/
theorem exec_withSticky {i : Instr} (hrd : i ≠ .statRd) (hclr : i ≠ .statClr) (s : State) :
    ∃ c res st, exec i s = .next ((s.setCrc c).finish res st) ∧
      ∀ k, exec i { s with sticky := k } = .next ((State.setCrc { s with sticky := k } c).finish res st) := by
  cases i with
  | statRd => exact absurd rfl hrd
  | statClr => exact absurd rfl hclr
  | crcInit => exact ⟨opa32 s, _, _, rfl, fun _ => rfl⟩
  | crcFeed n =>
    by_cases hn : feedCount n = true
    · exact ⟨fedCrc n.toNat s, _, _, if_pos hn, fun _ => if_pos hn⟩
    · exact ⟨s.crc, 0, stIll, if_neg hn, fun _ => if_neg hn⟩
  | _ => exact ⟨s.crc, _, _, rfl, fun _ => rfl⟩

end Sys2Proof.Machine
end

section
/-! The statements about illegal words and earlier errors (60_exceptions.md R161, R162). -/
namespace Sys2Proof
open Machine Safety

/-- Settles O5: a word that is not legal decodes to no command, and what decodes to none takes the one outcome. -/
theorem illegalWordsHaveNoOtherEffect : Obligations.IllegalWordsHaveNoOtherEffect := by
  intro w hw
  have hnone : ¬ ∃ i, decode w = .ok i := by
    rw [← legal_iff_exists_decode_ok, hw]
    exact Bool.false_ne_true
  exact (rejected_of_not_exists_decode_ok hnone).2

/-- Settles O47: for every STICKY a command ends with the same values (`exec_withSticky`) in `State.finish`, which alone
touches STICKY. -/
theorem earlierErrorsChangeNoLaterCommand : Obligations.EarlierErrorsChangeNoLaterCommand := by
  refine ⟨illegalWordsHaveNoOtherEffect, fun i s k hrd hclr => ?_⟩
  obtain ⟨c, res, st, hs, hk⟩ := exec_withSticky hrd hclr s
  exact ⟨_, res, st, hs, rfl, rfl, hk k⟩

end Sys2Proof
end

section
/-!
How a step serves the other entries of the total order (20_memory.md R44, 70_reset_and_hazards.md R180, R181), and that every
entry is served to an end (R187).
-/
namespace Sys2Proof.Machine

section Turns
variable {s : State} {k : Nat} {rest : List Turn}

theorem step_of_nil (ho : s.order = []) : step s = .next s.idle := by
  simp [step, serveTurn, ho]

theorem step_of_agent_none (ho : s.order = .agent k :: rest) (hc : s.nextOf k = none) :
    step s = .next (s.withOrder rest).idle := by
  simp [step, serveTurn, ho, agentTurn, hc]

/-- An agent's turn with a legal word runs the instruction it stands for. -/
theorem step_of_agent_decode_ok {c : Transaction} {i : Instr} (ho : s.order = .agent k :: rest) (hc : s.nextOf k = some c)
    (hd : decode c.cmd = .ok i) : step s = exec i (s.accept k c rest) :=
  (step_of_agent ho hc).trans (runCommand_of_decode_ok (s := s.accept k c rest) hd)

theorem step_of_resetDuring (ho : s.order = .resetDuring k :: rest) :
    step s = .next ((s.withOrder rest).cutCommand k).applyReset := by
  simp [step, serveTurn, ho]

theorem step_of_powerLoss (ho : s.order = .powerLoss :: rest) : step s = .next (s.withOrder rest).applyReset := by
  simp [step, serveTurn, ho]

end Turns

/-- The host's queues are not the block's: reset leaves each agent its next command (assumption log entry 8). -/
@[simp] theorem State.nextOf_applyReset (s : State) (k : Nat) : s.applyReset.nextOf k = s.nextOf k := rfl

@[simp] theorem State.nextOf_withOrder (s : State) (rest : List Turn) (k : Nat) : (s.withOrder rest).nextOf k = s.nextOf k :=
  rfl

/-- R187 with R161, for the command on the port: a legal word and an illegal one both answer their issuer. -/
theorem runCommand_replies (s : State) :
    ∃ t res st, runCommand s = .next t ∧ t.reply = some { agent := s.issuer, res := res, st := st } := by
  cases hd : decode s.port.cmd with
  | ok i =>
    obtain ⟨t, ht⟩ := exec_completes i s
    obtain ⟨-, -, -, -, -, res, st, hr⟩ := exec_frame i s t ht
    exact ⟨t, res, st, (runCommand_of_decode_ok hd).trans ht, hr⟩
  | error e => exact ⟨s.raiseIll, 0, stIll, runCommand_of_decode_error hd, rfl⟩

/-- R187: no entry of the total order, and no end of it, stops the block. -/
theorem step_completes (s : State) : ∃ t, step s = .next t := by
  cases ho : s.order with
  | nil => exact ⟨_, step_of_nil ho⟩
  | cons turn rest =>
    cases turn with
    | agent k =>
      cases hc : s.nextOf k with
      | none => exact ⟨_, step_of_agent_none ho hc⟩
      | some c =>
        obtain ⟨t, -, -, ht, -⟩ := runCommand_replies (s.accept k c rest)
        exact ⟨t, (step_of_agent ho hc).trans ht⟩
    | reset => exact ⟨_, step_of_reset ho⟩
    | resetDuring k => exact ⟨_, step_of_resetDuring ho⟩
    | powerLoss => exact ⟨_, step_of_powerLoss ho⟩

end Sys2Proof.Machine
end

section
/-! The statements about reset and completion (70_reset_and_hazards.md R181, R187). -/
namespace Sys2Proof
open Machine Safety

/-- Settles O42: every turn is served, every command completes, and the command on the port answers its issuer
(`runCommand_replies`), who is the agent whose turn it is. -/
theorem everyCommandCompletes : Obligations.EveryCommandCompletes := by
  refine ⟨step_completes, exec_completes, fun s k rest c ho hc => ?_⟩
  obtain ⟨t, res, st, ht, hr⟩ := runCommand_replies (s.accept k c rest)
  exact ⟨t, res, st, (step_of_agent ho hc).trans ht, hr⟩

/-- Settles O2: a command leaves the order still to be served as it was, so the reset behind it is the next turn; a reset
leaves the agents' queues as they were, so the command behind it is still its agent's next; a cut command only leaves its
queue. -/
theorem resetInTheCommandOrder : Obligations.ResetInTheCommandOrder := by
  refine ⟨fun s k rest c i ho hc hd => ?_, fun s k rest c i ho hc hd => ?_, fun s k rest ho => ?_⟩
  · obtain ⟨t, ht⟩ := exec_completes i (s.accept k c (.reset :: rest))
    obtain ⟨-, -, -, -, hto, -⟩ := exec_frame i _ t ht
    exact ⟨t, _, (step_of_agent_decode_ok ho hc hd).trans ht, ht, step_of_reset hto, rfl, rfl, rfl⟩
  · have hnext : (s.withOrder (.agent k :: rest)).applyReset.nextOf k = some c := by simpa using hc
    exact ⟨_, step_of_reset ho, rfl, rfl, rfl, step_of_agent_decode_ok rfl hnext hd⟩
  · exact ⟨_, step_of_resetDuring ho, rfl, rfl, rfl, rfl, rfl⟩

end Sys2Proof
end

section
/-!
The encoder against the decoder and against the opcode table (30_encoding.md R51, R53, R55): a legal word's fields are its
command's OP and N, and a row of the table fixes every bit of a word but CRC_FEED's count.
-/
namespace Sys2Proof

/-- The opcode map finds each command under its own OP and N (R55). -/
theorem instrOfOp_opcode_count (i : Instr) : instrOfOp i.opcode i.count = some i := by
  cases i <;> rfl

/-- A command's own N is in range exactly for the well-formed commands (R53). -/
theorem countInRange_count (i : Instr) : countInRange i i.count = i.wf := by
  cases i <;> rfl

/-- The N of a legal word is its command's: CRC_FEED carries it, and every other command's is 0. -/
theorem count_of_instrOfOp {op : BitVec 8} {n : BitVec 4} {i : Instr} (h : instrOfOp op n = some i)
    (hn : countInRange i n = true) : i.count = n := by
  cases i with
  | crcFeed m =>
    have hop : op = 0x11 := (opcode_of_instrOfOp h).symm
    subst hop
    exact (Instr.crcFeed.inj (Option.some.inj h)).symm
  | _ => exact (beq_iff_eq.mp hn).symm

theorem decode_encode {i : Instr} (h : i.wf = true) : decode (encode i) = .ok i := by
  rw [decode_eq_ok, cmdRsvd_encode, cmdOp_encode, cmdN_encode, countInRange_count]
  exact ⟨rfl, instrOfOp_opcode_count i, h⟩

theorem encode_of_decode_ok {w : Word32} {i : Instr} (h : decode w = .ok i) : encode i = w ∧ i.wf = true := by
  obtain ⟨hrsvd, hop, hn⟩ := (decode_eq_ok w i).mp h
  have hcount := count_of_instrOfOp hop hn
  refine ⟨word_ext ?_ ?_ ?_, ?_⟩
  · rw [cmdRsvd_encode, hrsvd]
  · rw [cmdN_encode, hcount]
  · rw [cmdOp_encode, opcode_of_instrOfOp hop]
  · rw [← countInRange_count, hcount, hn]

namespace Laws.EncodeFields

/-- Every command's word belongs to its own row of the opcode table and to no other. -/
theorem statement_all (i : Instr) : Statement i := by
  cases i with
  | nop => exact nop
  | ident => exact ident
  | statRd => exact statRd
  | statClr => exact statClr
  | crcInit => exact crcInit
  | crcFeed n => exact crcFeed n
  | crcRead => exact crcRead
  | crcCheck => exact crcCheck
  | crcTab => exact crcTab
  | endProbe => exact endProbe
  | endSwap64 => exact endSwap64
  | endHton64 => exact endHton64
  | endNtoh64 => exact endNtoh64
  | endHton32 => exact endHton32
  | endNtoh32 => exact endNtoh32
  | endHton16 => exact endHton16
  | endNtoh16 => exact endNtoh16
  | hdrUnpack => exact hdrUnpack
  | hdrPack => exact hdrPack
  | hdrLen => exact hdrLen

end Laws.EncodeFields

/-- A row of the opcode table fixes RSVD to 0, the OP to a listed one, and N to 0 but for CRC_FEED. -/
theorem opcodeRow_fields : ∀ r ∈ opcodeRows,
    cmdRsvd r.mask = BitVec.allOnes 20 ∧ cmdRsvd r.pattern = 0 ∧ cmdOp r.mask = BitVec.allOnes 8 ∧
      cmdOp r.pattern ∈ Safety.listedOps ∧ (cmdOp r.pattern = 0x11 ∨ cmdN r.mask = BitVec.allOnes 4 ∧ cmdN r.pattern = 0) := by
  decide

theorem mem_rowsMatching {w : Word32} {r : OpcodeRow} : r ∈ rowsMatching w ↔ r ∈ opcodeRows ∧ w &&& r.mask = r.pattern := by
  rw [rowsMatching, List.mem_filter, beq_iff_eq]

/-- A slice on which the mask is all ones is the row's in every word that matches the row. -/
theorem extractLsb_of_and_eq {w m p : Word32} {hi lo : Nat} (h : w &&& m = p)
    (hm : m.extractLsb hi lo = BitVec.allOnes (hi - lo + 1)) : w.extractLsb hi lo = p.extractLsb hi lo := by
  rw [← h, BitVec.extractLsb, BitVec.extractLsb, BitVec.extractLsb'_and]
  exact (BitVec.and_allOnes.symm.trans (congrArg _ hm.symm))

section Matching
variable {w : Word32} {r : OpcodeRow} (h : r ∈ rowsMatching w)
include h

theorem cmdOp_of_mem_rowsMatching : cmdOp w = cmdOp r.pattern := by
  obtain ⟨hr, hw⟩ := mem_rowsMatching.mp h
  obtain ⟨-, -, hop, -, -⟩ := opcodeRow_fields r hr
  exact extractLsb_of_and_eq hw hop

/-- A word that matches a row is a command unless it is CRC_FEED's row and the count is bad (R53). -/
theorem exists_decode_ok_of_mem_rowsMatching
    (hn : cmdOp w = 0x11 → 1 ≤ (cmdN w).toNat ∧ (cmdN w).toNat ≤ 8) : ∃ i, decode w = .ok i := by
  obtain ⟨hr, hw⟩ := mem_rowsMatching.mp h
  obtain ⟨hrsvd, hzero, -, hlisted, hcount⟩ := opcodeRow_fields r hr
  have hop := cmdOp_of_mem_rowsMatching h
  refine (Safety.exists_decode_ok_iff w).mpr ⟨(extractLsb_of_and_eq hw hrsvd).trans hzero, hop ▸ hlisted, ?_⟩
  by_cases hfeed : cmdOp w = 0x11
  · rw [if_pos hfeed]
    exact hn hfeed
  · rw [if_neg hfeed]
    obtain ⟨hmask, hpattern⟩ := hcount.resolve_left (hop ▸ hfeed)
    exact (extractLsb_of_and_eq hw hmask).trans hpattern

end Matching

/-- No two rows have one OP, so a word matches the row of its OP at most (R55). -/
theorem rowsMatching_length_le_one (w : Word32) : (rowsMatching w).length ≤ 1 := by
  have hdistinct : (opcodeRows.map fun r => cmdOp r.pattern).Nodup := by decide
  have hnodup : ((rowsMatching w).map fun r => cmdOp r.pattern).Nodup :=
    hdistinct.sublist ((List.filter_sublist (l := opcodeRows)).map _)
  have hconst : (rowsMatching w).map (fun r => cmdOp r.pattern) = List.replicate (rowsMatching w).length (cmdOp w) := by
    rw [← List.map_const']
    exact List.map_congr_left fun r hr => (cmdOp_of_mem_rowsMatching hr).symm
  rwa [hconst, List.nodup_replicate] at hnodup

end Sys2Proof
end

section
/-! The statements about the encoder and the opcode table (30_encoding.md R51, R53, R55). -/
namespace Sys2Proof

/-- Settles O9: the encoder puts back the three fields the decoder reads. -/
theorem decodeEncodeRoundTrip : Obligations.DecodeEncodeRoundTrip :=
  ⟨fun _ => decode_encode, fun _ _ => encode_of_decode_ok⟩

/-- Settles O10: rows differ in their OP, a legal word is its command's own, and a word that matches a row misses being a
command only by CRC_FEED's count. -/
theorem opcodeTableRowsAreDisjoint : Obligations.OpcodeTableRowsAreDisjoint := by
  refine ⟨rowsMatching_length_le_one, fun w i h => ?_, fun w e h => ?_⟩
  · rw [← (encode_of_decode_ok h).1]
    exact (Laws.EncodeFields.statement_all i).2
  · rw [or_iff_not_imp_right, List.eq_nil_iff_forall_not_mem]
    intro hcount r hr
    obtain ⟨i, hi⟩ := exists_decode_ok_of_mem_rowsMatching hr fun hop => not_not.mp fun hn => hcount ⟨hop, hn⟩
    exact nomatch h.symm.trans hi

/-- Settles O8: each word is evaluated. -/
theorem wordsOfTheOpcodeMapDecode : Obligations.WordsOfTheOpcodeMapDecode := by
  unfold Obligations.WordsOfTheOpcodeMapDecode
  decide

end Sys2Proof
end

section
/-!
The status of every command (10_state.md R26, 60_exceptions.md R165, R166), said once, and what a step that returns a reply did.
-/
namespace Sys2Proof.Machine
open Safety

/-- The ST values of each command (R26); a CRC_FEED with a bad count, which no legal word carries, answers ILL (assumption log
entry 11). -/
def statusesOf : Instr → List Byte
  | .crcFeed n => if feedCount n then [stNone] else [stIll]
  | .crcCheck => [stNone, stCrcmis]
  | .hdrUnpack => [stNone, stStruct, stExt, stStruct ||| stExt]
  | .hdrPack => [stNone, stStruct, stExt, stStruct ||| stExt]
  | .hdrLen => [stNone, stExt]
  | _ => [stNone]

theorem headerStatus_mem (struct ext : Bool) :
    headerStatus struct ext ∈ [stNone, stStruct, stExt, stStruct ||| stExt] := by
  revert struct ext
  decide

theorem flagIf_mem (c : Bool) (st : Byte) : flagIf c st ∈ [stNone, st] := by
  cases c <;> simp [flagIf]

theorem exec_status {i : Instr} {s t : State} {r : Reply} (h : exec i s = .next t) (hr : t.reply = some r) :
    r.st ∈ statusesOf i := by
  cases i with
  | crcFeed n =>
    by_cases hn : feedCount n = true
    · obtain rfl := Host.Outcome.next.inj ((if_pos hn).symm.trans h)
      cases hr
      simp [statusesOf, hn]
    · obtain rfl := Host.Outcome.next.inj ((if_neg hn).symm.trans h)
      cases hr
      simp [statusesOf, hn]
  | crcCheck | hdrLen =>
    cases h
    cases hr
    exact flagIf_mem _ _
  | hdrUnpack | hdrPack =>
    cases h
    cases hr
    exact headerStatus_mem _ _
  | _ =>
    cases h
    cases hr
    exact List.mem_singleton_self _

/-- Which status bit has which source (R26); a well-formed command sets no ILL. -/
structure StatusSources (i : Instr) (st : Byte) : Prop where
  status : st ∈ statuses
  ill : st.getLsbD 0 = false
  struct : st.getLsbD 1 = true → i = .hdrUnpack ∨ i = .hdrPack
  crcmis : st.getLsbD 2 = true → i = .crcCheck
  ext : st.getLsbD 3 = true → i = .hdrUnpack ∨ i = .hdrPack ∨ i = .hdrLen
  errors : errorBits st = 0 ∨ (i = .hdrUnpack ∨ i = .hdrPack) ∧ errorBits st = 0b010 ∨ i = .crcCheck ∧ errorBits st = 0b100

/-- The status 0 needs no source. -/
theorem statusSources_stNone (i : Instr) : StatusSources i stNone where
  status := by decide
  ill := rfl
  struct := nofun
  crcmis := nofun
  ext := nofun
  errors := .inl rfl

theorem statusSources_header {i : Instr} (hi : i = .hdrUnpack ∨ i = .hdrPack) :
    ∀ st ∈ [stNone, stStruct, stExt, stStruct ||| stExt], StatusSources i st := by
  have hbits : ∀ st ∈ [stNone, stStruct, stExt, stStruct ||| stExt], st ∈ statuses ∧ st.getLsbD 0 = false ∧
      st.getLsbD 2 = false ∧ (errorBits st = 0 ∨ errorBits st = 0b010) := by decide
  intro st hst
  obtain ⟨hmem, hill, hcrcmis, herr⟩ := hbits st hst
  exact ⟨hmem, hill, fun _ => hi, fun h => absurd (hcrcmis.symm.trans h) Bool.false_ne_true, fun _ => hi.imp_right .inl,
    herr.imp_right fun h => .inl ⟨hi, h⟩⟩

theorem statusesOf_sources {i : Instr} (hi : i.wf = true) : ∀ st ∈ statusesOf i, StatusSources i st := by
  cases i with
  | crcFeed n =>
    have hone : statusesOf (.crcFeed n) = [stNone] := if_pos hi
    rw [hone, List.forall_mem_singleton]
    exact statusSources_stNone _
  | crcCheck =>
    refine List.forall_mem_cons.mpr ⟨statusSources_stNone _, List.forall_mem_singleton.mpr ?_⟩
    exact ⟨by decide, rfl, nofun, fun _ => rfl, nofun, .inr (.inr ⟨rfl, rfl⟩)⟩
  | hdrLen =>
    refine List.forall_mem_cons.mpr ⟨statusSources_stNone _, List.forall_mem_singleton.mpr ?_⟩
    exact ⟨by decide, rfl, nofun, nofun, fun _ => .inr (.inr rfl), .inl rfl⟩
  | hdrUnpack => exact statusSources_header (.inl rfl)
  | hdrPack => exact statusSources_header (.inr rfl)
  | _ => exact List.forall_mem_singleton.mpr (statusSources_stNone _)

/-- A step that returns a reply served a command: a legal one, or an illegal word's outcome. -/
theorem step_reply_cases {s t : State} {r : Reply} (h : step s = .next t) (hr : t.reply = some r) :
    (∃ k rest c i, decode c.cmd = .ok i ∧ exec i (s.accept k c rest) = .next t) ∨
    (∃ k rest c e, decode c.cmd = .error e ∧ t = (s.accept k c rest).raiseIll) := by
  obtain ⟨-, rfl⟩ | ⟨k, rest, -, -, rfl⟩ | ⟨k, rest, c, i, -, -, hd, hx⟩ | ⟨k, rest, c, e, -, -, hd, rfl⟩ | ⟨rest, -, rfl⟩ |
    ⟨k, rest, -, rfl⟩ := step_cases s t h
  case inr.inr.inl => exact .inl ⟨k, rest, c, i, hd, hx⟩
  case inr.inr.inr.inl => exact .inr ⟨k, rest, c, e, hd, rfl⟩
  all_goals exact nomatch hr

end Sys2Proof.Machine

namespace Sys2Proof.Safety
open Machine

/-- Error bits OR-ed into STICKY stand there. -/
theorem accumulate_and_errorBits (sticky : BitVec 3) (st : Byte) : accumulate sticky st &&& errorBits st = errorBits st := by
  rw [accumulate, BitVec.and_comm]
  ext k hk
  simpa using fun h => Or.inr h

/-- The invariant is about a reply only. -/
theorem repliesSound_of_reply_none {s : State} (h : s.reply = none) : RepliesSound s := by
  constructor <;> simp [h]

theorem repliesSound_raiseIll (s : State) : RepliesSound s.raiseIll := by
  constructor <;> rintro r ⟨⟩
  · exact (by decide : stIll ∈ statuses)
  · exact fun _ => rfl
  · rfl
  · exact accumulate_and_errorBits s.sticky stIll

/-- R28: the errors a command reports stand in STICKY after it; STAT_CLR, which clears it, reports none. -/
theorem exec_errorsKept {i : Instr} {s t : State} {r : Reply} (h : exec i s = .next t) (hr : t.reply = some r) :
    t.sticky &&& errorBits r.st = errorBits r.st := by
  by_cases hi : i = .statClr
  · subst hi
    cases h
    cases hr
    exact (by decide : 0 &&& errorBits stNone = errorBits stNone)
  · obtain ⟨r', hr', hsticky⟩ := exec_accumulated hi h
    obtain rfl := Option.some.inj (hr'.symm.trans hr)
    rw [hsticky, accumulate_and_errorBits]

theorem exec_repliesSound {i : Instr} (hi : i.wf = true) {s t : State} (h : exec i s = .next t) : RepliesSound t := by
  have hsource {r : Reply} (hr : t.reply = some r) := statusesOf_sources hi r.st (exec_status h hr)
  obtain ⟨-, -, hissuer, -, -, res, st, hreply⟩ := exec_frame i s t h
  refine ⟨fun r hr => (hsource hr).status, fun r hr hill => ?_, fun r hr => ?_, fun r => exec_errorsKept h⟩
  · exact absurd ((hsource hr).ill.symm.trans hill) Bool.false_ne_true
  · obtain rfl := Option.some.inj (hreply.symm.trans hr)
    exact hissuer.symm

theorem step_repliesSound {s t : State} (h : step s = .next t) : RepliesSound t := by
  cases hr : t.reply with
  | none => exact repliesSound_of_reply_none hr
  | some r =>
    obtain ⟨k, rest, c, i, hd, hx⟩ | ⟨k, rest, c, e, -, rfl⟩ := step_reply_cases h hr
    · exact exec_repliesSound (encode_of_decode_ok hd).2 hx
    · exact repliesSound_raiseIll _

theorem legal_of_decode_ok {w : Word32} {i : Instr} (h : decode w = .ok i) : legal w = true :=
  (legal_iff_exists_decode_ok w).mpr ⟨i, h⟩

theorem legal_of_decode_error {w : Word32} {e : DecodeError} (h : decode w = .error e) : legal w = false := by
  rw [Bool.eq_false_iff, ne_eq, legal_iff_exists_decode_ok, h]
  exact fun ⟨_, hi⟩ => nomatch hi

end Sys2Proof.Safety
end

section
/-! The statements about what the port returns and which command sets which bit (10_state.md R24, R26 to R28, 60_exceptions.md
R161, R162, R166). -/
namespace Sys2Proof
open Machine Safety

/-- Settles O48: every step writes the reply anew, with a status of the command it served or none at all. -/
theorem everyStepKeepsRepliesSound : Obligations.EveryStepKeepsRepliesSound :=
  fun _ _ _ h => step_repliesSound h

/-- Settles O49: reset holds no reply. -/
theorem resetHasRepliesSound : Obligations.ResetHasRepliesSound :=
  repliesSound_of_reply_none rfl

/-- Settles O45: a legal command's status has its sources (`statusesOf_sources`), and an illegal word's is ILL alone. -/
theorem statusBitsAndTheirSources : Obligations.StatusBitsAndTheirSources := by
  intro s t r h hr
  obtain ⟨k, rest, c, i, hd, hx⟩ | ⟨k, rest, c, e, hd, rfl⟩ := step_reply_cases h hr
  · obtain ⟨-, hport, -⟩ := exec_frame i _ t hx
    have hsource := statusesOf_sources (encode_of_decode_ok hd).2 r.st (exec_status hx hr)
    rw [hport, State.accept_port, legal_of_decode_ok hd, hd]
    simp only [Except.ok.injEq]
    exact ⟨hsource.status, fun hill => absurd (hsource.ill.symm.trans hill) Bool.false_ne_true, hsource.struct, hsource.crcmis,
      hsource.ext, fun hlegal => absurd hlegal Bool.noConfusion⟩
  · have hst : r.st = stIll := congrArg Reply.st (Option.some.inj hr).symm
    rw [hst]
    exact ⟨by decide, fun _ => ⟨legal_of_decode_error hd, rfl⟩, nofun, nofun, nofun, fun _ => rfl⟩

end Sys2Proof
end

section
/-!
Who writes and reads CRC, and what changes STICKY (10_state.md R24, R28): the sources of every change a command or a step makes.
-/
namespace Sys2Proof.Machine

/-- R24: the two commands that write CRC. -/
theorem exec_crc_source {i : Instr} {s t : State} (h : exec i s = .next t) (hcrc : t.crc ≠ s.crc) :
    i = .crcInit ∨ ∃ n, i = .crcFeed n := by
  obtain ⟨res, st, rfl⟩ | ⟨-, rfl⟩ | ⟨rfl, -⟩ | ⟨n, rfl, -⟩ := exec_cases i s t h
  · exact absurd rfl hcrc
  · exact absurd rfl hcrc
  · exact .inl rfl
  · exact .inr ⟨n, rfl⟩

/-- R28: STICKY is cleared by STAT_CLR and otherwise gains the error bit of the one command that can report it. -/
theorem exec_sticky_source {i : Instr} (hi : i.wf = true) {s t : State} (h : exec i s = .next t) (hne : t.sticky ≠ s.sticky) :
    ((i = .hdrUnpack ∨ i = .hdrPack) ∧ t.sticky = s.sticky ||| 0b010) ∨
    (i = .crcCheck ∧ t.sticky = s.sticky ||| 0b100) ∨ (i = .statClr ∧ t.sticky = 0) := by
  by_cases hclr : i = .statClr
  · subst hclr
    cases h
    exact .inr (.inr ⟨rfl, rfl⟩)
  · obtain ⟨r, hr, hsticky⟩ := exec_accumulated hclr h
    rw [hsticky, accumulate] at hne ⊢
    obtain hnone | ⟨hhdr, hbits⟩ | ⟨hcheck, hbits⟩ := (statusesOf_sources hi r.st (exec_status h hr)).errors
    · rw [hnone] at hne
      exact absurd BitVec.or_zero hne
    · exact .inl ⟨hhdr, by rw [hbits]⟩
    · exact .inr (.inl ⟨hcheck, by rw [hbits]⟩)

/-- R24: a command but CRC_FEED, CRC_READ and CRC_CHECK does the same whatever CRC holds, and leaves it so but for CRC_INIT. -/
theorem exec_withCrc {i : Instr} {s t : State} (v : Word32) (hfeed : ∀ n, i ≠ .crcFeed n) (hread : i ≠ .crcRead)
    (hcheck : i ≠ .crcCheck) (h : exec i s = .next t) :
    exec i { s with crc := v } = .next { t with crc := if i = .crcInit then t.crc else v } := by
  cases i with
  | crcFeed n => exact absurd rfl (hfeed n)
  | crcRead => exact absurd rfl hread
  | crcCheck => exact absurd rfl hcheck
  | _ =>
    cases h
    rfl

/-- An illegal word's outcome keeps CRC (60_exceptions.md R162). -/
theorem step_crc_of_illegal {s t : State} {k : Nat} {rest : List Turn} {c : Transaction} (ho : s.order = .agent k :: rest)
    (hc : s.nextOf k = some c) (hl : Safety.legal c.cmd = false) (h : step s = .next t) : t.crc = s.crc := by
  have hill := illegalWordsHaveNoOtherEffect c.cmd hl s k rest c ho hc rfl
  obtain rfl := Host.Outcome.next.inj (hill.symm.trans h)
  rfl

end Sys2Proof.Machine
end

section
/-! The statement about the sources of changes of CRC and STICKY (10_state.md R24, R26 to R28). -/
namespace Sys2Proof
open Machine Safety

/-- Settles O43: the sources of a command's changes, and of a step's by the kinds of turn it can serve. -/
theorem crcIsWrittenAndReadOnlyByItsUnit : Obligations.CrcIsWrittenAndReadOnlyByItsUnit := by
  refine ⟨fun i s t => exec_crc_source, fun s t k rest c => step_crc_of_illegal, fun i s t v => exec_withCrc v,
    fun s t h hne => ?_⟩
  obtain ⟨-, rfl⟩ | ⟨k, rest, -, -, rfl⟩ | ⟨k, rest, c, i, ho, hc, hd, hx⟩ | ⟨k, rest, c, e, ho, hc, hd, rfl⟩ |
    ⟨rest, ho, rfl⟩ | ⟨k, rest, ho, rfl⟩ := step_cases s t h
  · exact absurd rfl (hne.resolve_left (absurd rfl))
  · exact absurd rfl (hne.resolve_left (absurd rfl))
  · refine .inr ⟨k, rest, c, ho, hc, fun hcrc => ?_, fun hsticky => .inr ?_⟩
    · simpa only [hd, Except.ok.injEq] using exec_crc_source hx hcrc
    · simpa only [hd, Except.ok.injEq, State.accept_sticky] using
        exec_sticky_source (encode_of_decode_ok hd).2 hx hsticky
  · exact .inr ⟨k, rest, c, ho, hc, fun hcrc => absurd rfl hcrc, fun _ => .inl ⟨legal_of_decode_error hd, rfl⟩⟩
  · exact .inl ⟨⟨rest, ho.imp_right .inl⟩, rfl, rfl⟩
  · exact .inl ⟨⟨rest, .inr (.inr ⟨k, ho⟩)⟩, rfl, rfl⟩

end Sys2Proof
end

section
/-!
The byte step and `calculate` (42_crc.md R101 to R103, R110): a shift is linear over exclusive or and loses nothing, so eight
shifts of c ^ b split into a table entry and c >> 8, and no step merges two registers or two bytes.
-/
namespace Sys2Proof

/-- What a shift adds for the bit that falls out (R101). -/
def crcFeedback (out : Bool) : Word32 := if out then crcPoly else 0

theorem crcFeedback_xor (a b : Bool) : crcFeedback (a ^^ b) = crcFeedback a ^^^ crcFeedback b := by
  cases a <;> cases b <;> simp [crcFeedback]

theorem crcShift_eq (c : Word32) : crcShift c = crcFeedback (c.getLsbD 0) ^^^ c >>> 1 := by
  unfold crcShift crcFeedback
  split <;> simp

theorem crcShift_xor (a b : Word32) : crcShift (a ^^^ b) = crcShift a ^^^ crcShift b := by
  rw [crcShift_eq, crcShift_eq, crcShift_eq, BitVec.getLsbD_xor, BitVec.ushiftRight_xor_distrib, crcFeedback_xor]
  ac_rfl

theorem crcShifts_xor (k : Nat) (a b : Word32) : crcShifts k (a ^^^ b) = crcShifts k a ^^^ crcShifts k b := by
  induction k generalizing a b with
  | zero => rfl
  | succ k ih => rw [crcShifts, crcShift_xor, ih, crcShifts, crcShifts]

/-- While only zeros fall out, the polynomial never enters. -/
theorem crcShifts_of_low_zeros (k : Nat) (c : Word32) (h : ∀ i < k, c.getLsbD i = false) : crcShifts k c = c >>> k := by
  induction k generalizing c with
  | zero => exact (BitVec.ushiftRight_zero c).symm
  | succ k ih =>
    have hshift : crcShift c = c >>> 1 := by
      rw [crcShift_eq, h 0 k.succ_pos]
      exact BitVec.zero_xor
    rw [crcShifts, hshift, ih, Nat.add_comm, BitVec.shiftRight_add]
    intro i hi
    rw [BitVec.getLsbD_ushiftRight, h _ (by omega)]

/-- Bit 31 of a shift tells whether the polynomial entered, and the other bits stand one place lower. -/
theorem crcShift_injective : Function.Injective crcShift := by
  intro a b h
  rw [crcShift_eq, crcShift_eq] at h
  have htop (c : Word32) : (crcFeedback (c.getLsbD 0) ^^^ c >>> 1).getLsbD 31 = c.getLsbD 0 := by
    rw [BitVec.getLsbD_xor, BitVec.getLsbD_ushiftRight, c.getLsbD_of_ge (1 + 31) (by decide), Bool.xor_false]
    generalize c.getLsbD 0 = out
    revert out
    decide
  have hlow : a.getLsbD 0 = b.getLsbD 0 := by rw [← htop a, h, htop]
  rw [hlow, BitVec.xor_right_inj] at h
  refine BitVec.eq_of_getLsbD_eq fun i hi => ?_
  cases i with
  | zero => exact hlow
  | succ i => simpa [Nat.add_comm] using congrArg (BitVec.getLsbD · i) h

theorem crcShifts_injective (k : Nat) : Function.Injective (crcShifts k) := by
  rw [funext (crcShifts_eq_iterate k)]
  exact crcShift_injective.iterate k

/-- A register is its low byte and the rest. -/
theorem low_xor_high (x : Word32) : (x.extractLsb 7 0).setWidth 32 ^^^ (x >>> 8) <<< 8 = x := by
  refine BitVec.eq_of_getLsbD_eq fun i hi => ?_
  rcases Nat.lt_or_ge i 8 with h | h
  · simp [h, hi]
  · simp [h, hi, Nat.not_lt.mpr h]

/-- A byte exclusive-ored in does not reach the rest of the register. -/
theorem xor_byte_shift (c : Word32) (b : Byte) : (c ^^^ b.setWidth 32) >>> 8 = c >>> 8 := by
  refine BitVec.eq_of_getLsbD_eq fun i hi => ?_
  simp

/-- R110: eight shifts act on the low byte as the table does and only move the rest down. -/
theorem crcStep_eq_crcStepBitwise (c : Word32) (b : Byte) : crcStep c b = crcStepBitwise c b := by
  have hhigh : crcShifts 8 ((c >>> 8) <<< 8) = c >>> 8 := by
    have hlow : ∀ i < 8, ((c >>> 8) <<< 8).getLsbD i = false := fun i hi => by simp [hi]
    rw [crcShifts_of_low_zeros 8 _ hlow]
    refine BitVec.eq_of_getLsbD_eq fun i hi => ?_
    simpa using c.lt_of_getLsbD
  rw [crcStep, crcTable, ← hhigh, ← crcShifts_xor, ← xor_byte_shift c b, low_xor_high, crcStepBitwise]

/-- Neither the register nor the byte of a step is lost while the other is known. -/
theorem crcStep_left_injective (b : Byte) : Function.Injective (crcStep · b) := by
  intro c c' h
  simp only [crcStep_eq_crcStepBitwise, crcStepBitwise] at h
  exact (BitVec.xor_left_inj _).mp (crcShifts_injective 8 h)

theorem crcStep_right_injective (c : Word32) : Function.Injective (crcStep c) := by
  intro b b' h
  simp only [crcStep_eq_crcStepBitwise, crcStepBitwise] at h
  have hzext := (BitVec.xor_right_inj _).mp (crcShifts_injective 8 h)
  simpa using congrArg (BitVec.setWidth 8) hzext

theorem foldl_crcStep_injective (bytes : List Byte) : Function.Injective (List.foldl crcStep · bytes) := by
  induction bytes with
  | nil => exact fun _ _ h => h
  | cons b bytes ih => exact ih.comp (crcStep_left_injective b)

theorem calculate_append (seed : Word32) (a b : List Byte) : calculate (calculate seed a) b = calculate seed (a ++ b) := by
  simp [calculate]

/-- `calculate` of sequences that agree but for one byte differ at that byte's step, and keep differing. -/
theorem calculate_ne_of_byte_ne (seed : Word32) (before after : List Byte) {b b' : Byte} (h : b ≠ b') :
    calculate seed (before ++ b :: after) ≠ calculate seed (before ++ b' :: after) := by
  intro heq
  have hfold := (BitVec.xor_left_inj _).mp heq
  rw [List.foldl_append, List.foldl_append] at hfold
  exact h (crcStep_right_injective _ (foldl_crcStep_injective after hfold))

/-- Byte k of the wire bytes is byte n-1-k of the value (00_scope.md R14). -/
theorem wireBytes_eq_map {w : Nat} (n : Nat) (v : BitVec w) :
    wireBytes n v = (List.range n).map fun k => byteAt v (n - 1 - k) := by
  induction n with
  | zero => rfl
  | succ n ih =>
    rw [wireBytes, ih, List.range_succ_eq_map, List.map_cons, List.map_map]
    refine congrArg (byteAt v n :: ·) (List.map_congr_left fun k _ => congrArg (byteAt v) ?_)
    omega

/-- The low byte, masked or sliced. -/
theorem extractLsb_eq_setWidth_and (x : Word32) : x.extractLsb 7 0 = (x &&& 0xFF).setWidth 8 := by
  have hmask : (0xFF : Word32).setWidth 8 = BitVec.allOnes 8 := rfl
  rw [BitVec.setWidth_and, hmask, BitVec.and_allOnes]
  exact (BitVec.setWidth_eq_extractLsb' (by decide)).symm

/-- R103 with both complements written as such. -/
theorem calculate_eq_not (seed : Word32) (bytes : List Byte) : calculate seed bytes = ~~~ (bytes.foldl crcStep (~~~ seed)) := by
  rw [← BitVec.xor_allOnes, ← BitVec.xor_allOnes]
  rfl

namespace Machine

theorem feedCount_eq_true_iff (n : BitVec 4) : feedCount n = true ↔ 1 ≤ n.toNat ∧ n.toNat ≤ 8 := by
  rw [feedCount, Bool.and_eq_true, decide_eq_true_iff, decide_eq_true_iff]

/-- R106: only the accumulator and the reply are written. -/
theorem exec_crcFeed {n : BitVec 4} (hn : feedCount n = true) (s : State) : exec (.crcFeed n) s = .next { s with
    crc := fedCrc n.toNat s, reply := some { agent := s.issuer, res := zext64 (fedCrc n.toNat s), st := stNone } } :=
  (if_pos hn).trans (congrArg Host.Outcome.next (finish_stNone (s.setCrc _) _))

/-- R106, R162: a bad count takes the illegal-command outcome (assumption log entry 11). -/
theorem exec_crcFeed_of_bad {n : BitVec 4} (hn : ¬ feedCount n = true) (s : State) :
    exec (.crcFeed n) s = .next s.raiseIll :=
  if_neg hn

end Machine
end Sys2Proof
end

section
/-! The statements about CRC_FEED, `calculate` and the byte step (42_crc.md R101 to R103, R106, R110, R111), and the reset by
software (70_reset_and_hazards.md R180). -/
namespace Sys2Proof
open Machine Safety

/-- Settles O16: the word is the encoder's; the illegal words are reserved ones; the two outcomes are those of the count check;
`calculate` continues where it stopped. -/
theorem crcFeedFeedsItsBytes : Obligations.CrcFeedFeedsItsBytes := by
  refine ⟨fun n h1 h8 => ?_, fun w hop hw => ?_, fun s n h1 h8 => ?_, fun s n hn => ?_, by decide, calculate_append⟩
  · exact decode_encode (i := .crcFeed n) ((feedCount_eq_true_iff n).mpr ⟨h1, h8⟩)
  · refine (reservedWordsAreIllegal w ?_).2
    exact hw.imp_right fun hn => .inr (.inr ⟨hop, hn⟩)
  · refine ⟨fedCrc n.toNat s, congrArg (calculate s.crc) (wireBytes_eq_map n.toNat s.port.opa), ?_⟩
    exact exec_crcFeed ((feedCount_eq_true_iff n).mpr ⟨h1, h8⟩) s
  · refine exec_crcFeed_of_bad ?_ s
    rw [feedCount_eq_true_iff]
    omega

/-- Settles O20: the low byte sliced is the low byte masked, and exclusive or with all ones is the complement. -/
theorem calculateIsTheTableDrivenCrc : Obligations.CalculateIsTheTableDrivenCrc := by
  refine ⟨fun c b => ?_, calculate_eq_not, calculate_nil⟩
  rw [crcStep, extractLsb_eq_setWidth_and]

/-- Settles O21: `crcStep_eq_crcStepBitwise`, by the linearity of the shift. -/
theorem tableStepIsTheBitwiseStep : Obligations.TableStepIsTheBitwiseStep :=
  crcStep_eq_crcStepBitwise

set_option maxRecDepth 8000 in
/-- Settles O22: each value is evaluated. -/
theorem checkValuesOfTheCrc : Obligations.CheckValuesOfTheCrc := by
  refine ⟨?_, ?_, ?_, ?_, ?_, ?_⟩ <;> decide

/-- Settles O23: no later step undoes the difference the changed byte makes. -/
theorem crcDetectsEveryChangedByte : Obligations.CrcDetectsEveryChangedByte :=
  fun seed before after _ _ h => calculate_ne_of_byte_ne seed before after h

/-- Settles O3: CRC_INIT writes OPA[31:0] and STAT_CLR clears STICKY; both turns are `State.applyReset`. -/
theorem softwareResetAndPowerLoss : Obligations.SoftwareResetAndPowerLoss := by
  refine ⟨fun s hs => ⟨_, _, exec_crcInit s, rfl, hs, rfl, rfl⟩, (calculate_nil 0).symm, fun s rest ho => ?_⟩
  exact (step_of_powerLoss ho).trans (step_of_reset (s := { s with order := .reset :: rest }) rfl).symm

end Sys2Proof
end

section
/-!
Byte reversal and the wire forms (00_scope.md R14, R15), byte by byte: a value is its bytes, a reversal has the bytes in the other
order, and wire bytes and wire value undo each other.
-/
namespace Sys2Proof

section Append
variable {n : Nat} (v : BitVec n) (b : Byte)

theorem byteAt_append_zero : byteAt (v ++ b) 0 = b :=
  BitVec.extractLsb'_append_eq_right

theorem byteAt_append_succ (k : Nat) : byteAt (v ++ b) (k + 1) = byteAt v k := by
  rw [byteAt, BitVec.extractLsb'_append_eq_of_le (by omega)]
  exact congrArg (BitVec.extractLsb' · 8 v) (by omega)

end Append

/-- A value of n bytes is determined by them. -/
theorem eq_of_byteAt {w n : Nat} (hw : w = 8 * n) {v u : BitVec w} (h : ∀ k < n, byteAt v k = byteAt u k) : v = u := by
  refine BitVec.eq_of_getLsbD_eq fun i hi => ?_
  have hbit := congrArg (BitVec.getLsbD · (i % 8)) (h (i / 8) (by omega))
  have hmod : i % 8 < 8 := Nat.mod_lt _ (by decide)
  simpa only [getLsbD_byteAt, hmod, decide_true, Bool.true_and, Nat.div_add_mod] using hbit

theorem byteAt_self (b : Byte) : byteAt b 0 = b :=
  BitVec.extractLsb'_eq_self

theorem byteAt_bswap16 (v : BitVec 16) (k : Nat) (hk : k < 2) : byteAt (bswap16 v) k = byteAt v (1 - k) := by
  unfold bswap16
  interval_cases k <;> simp only [byteAt_append_zero, byteAt_append_succ, byteAt_self]

theorem byteAt_bswap32 (v : Word32) (k : Nat) (hk : k < 4) : byteAt (bswap32 v) k = byteAt v (3 - k) := by
  unfold bswap32
  interval_cases k <;> simp only [byteAt_append_zero, byteAt_append_succ, byteAt_self]

theorem byteAt_bswap64 (v : Word64) (k : Nat) (hk : k < 8) : byteAt (bswap64 v) k = byteAt v (7 - k) := by
  unfold bswap64
  interval_cases k <;> simp only [byteAt_append_zero, byteAt_append_succ, byteAt_self]

/-- A function that puts a value's n bytes in reverse order is its own inverse. -/
theorem involutive_of_byteAt_reversed {w n : Nat} (hw : w = 8 * n) {f : BitVec w → BitVec w}
    (hf : ∀ v, ∀ k < n, byteAt (f v) k = byteAt v (n - 1 - k)) : Function.Involutive f := by
  intro v
  refine eq_of_byteAt hw fun k hk => ?_
  have hrev : n - 1 - k < n := by omega
  have hback : n - 1 - (n - 1 - k) = k := by omega
  rw [hf (f v) k hk, hf v _ hrev, hback]

@[simp] theorem bswap16_bswap16 (v : BitVec 16) : bswap16 (bswap16 v) = v :=
  involutive_of_byteAt_reversed (n := 2) rfl byteAt_bswap16 v

@[simp] theorem bswap32_bswap32 (v : Word32) : bswap32 (bswap32 v) = v :=
  involutive_of_byteAt_reversed (n := 4) rfl byteAt_bswap32 v

@[simp] theorem bswap64_bswap64 (v : Word64) : bswap64 (bswap64 v) = v :=
  involutive_of_byteAt_reversed (n := 8) rfl byteAt_bswap64 v

/-- Byte k counts 256^k. -/
theorem byteAt_toNat {w : Nat} (v : BitVec w) (k : Nat) : (byteAt v k).toNat = v.toNat / 256 ^ k % 256 := by
  rw [byteAt, BitVec.extractLsb'_toNat, Nat.shiftRight_eq_div_pow, Nat.pow_mul]

/-- `wv` as a sum over the positions (R14). -/
theorem wireValue_eq_sum (bytes : List Byte) : wireValue bytes =
    ((List.range bytes.length).map fun k => (bytes.getD k 0).toNat * 256 ^ (bytes.length - 1 - k)).sum := by
  induction bytes with
  | nil => rfl
  | cons b bytes ih =>
    rw [wireValue, ih, List.length_cons, List.range_succ_eq_map, List.map_cons, List.map_map, List.sum_cons]
    refine congrArg (b.toNat * 256 ^ bytes.length + ·) (congrArg List.sum (List.map_congr_left fun k _ => ?_))
    have hexp : bytes.length - (k + 1) = bytes.length - 1 - k := by omega
    simp [hexp]

theorem wireBytes_getElem? {w : Nat} (v : BitVec w) {n k : Nat} (h : k < n) :
    (wireBytes n v)[k]? = some (byteAt v (n - 1 - k)) := by
  simp [wireBytes_eq_map, h]

/-- The wire bytes of a value spell its low bytes. -/
theorem wireValue_wireBytes {w : Nat} (n : Nat) (v : BitVec w) : wireValue (wireBytes n v) = v.toNat % 256 ^ n := by
  induction n with
  | zero => simp [wireBytes, wireValue, Nat.mod_one]
  | succ n ih => rw [wireBytes, wireValue, wireBytes_length, ih, byteAt_toNat, Nat.mod_pow_succ, Nat.mul_comm, Nat.add_comm]

/-- Sequences of one length that spell one number are one sequence. -/
theorem wireValue_inj {a b : List Byte} (hlen : a.length = b.length) (h : wireValue a = wireValue b) : a = b := by
  induction a generalizing b with
  | nil => exact (List.length_eq_zero_iff.mp hlen.symm).symm
  | cons x xs ih =>
    cases b with
    | nil => exact nomatch hlen
    | cons y ys =>
      have hlen' : xs.length = ys.length := Nat.succ.inj hlen
      have hx := wireValue_lt xs
      have hy := wireValue_lt ys
      rw [wireValue, wireValue, hlen'] at h
      rw [hlen'] at hx
      have hdiv (d : Nat) {v : Nat} (hv : v < 256 ^ ys.length) : (d * 256 ^ ys.length + v) / 256 ^ ys.length = d := by
        rw [Nat.mul_comm, Nat.mul_add_div (by positivity), Nat.div_eq_of_lt hv, Nat.add_zero]
      have hhead : x.toNat = y.toNat := by rw [← hdiv x.toNat hx, h, hdiv _ hy]
      rw [BitVec.eq_of_toNat_eq hhead, ih hlen' (by rw [hhead] at h; omega)]

/-- Wire bytes undo the wire value of at most 8 bytes. -/
theorem wireBytes_wireValue {bytes : List Byte} (h : bytes.length ≤ 8) :
    wireBytes bytes.length (BitVec.ofNat 64 (wireValue bytes)) = bytes := by
  refine wireValue_inj (wireBytes_length _ _) ?_
  have hlt := wireValue_lt bytes
  have hword : 256 ^ bytes.length ≤ 2 ^ 64 := (Nat.pow_le_pow_right (by decide) h).trans_eq (by norm_num : 256 ^ 8 = 2 ^ 64)
  rw [wireValue_wireBytes, BitVec.toNat_ofNat, Nat.mod_eq_of_lt (hlt.trans_le hword), Nat.mod_eq_of_lt hlt]

/-- The low bits of a zero-extended value are the value (00_scope.md R13). -/
theorem extractLsb'_zext64 {w : Nat} (hw : w ≤ 64) (v : BitVec w) : (zext64 v).extractLsb' 0 w = v :=
  (BitVec.extractLsb'_setWidth_of_le (by omega)).trans BitVec.extractLsb'_eq_self

/-- A number below 2^w is its low w bits zero-extended. -/
theorem zext64_extractLsb' {w : Nat} (hw : w ≤ 64) {x : Word64} (h : x.toNat < 2 ^ w) : zext64 (x.extractLsb' 0 w) = x := by
  apply BitVec.eq_of_toNat_eq
  rw [zext64, BitVec.toNat_setWidth_of_le hw, BitVec.extractLsb'_toNat, Nat.shiftRight_zero, Nat.mod_eq_of_lt h]

/-- The 4 high bytes of a 64-bit value come first on the wire. -/
theorem wireBytes_take_four (v : Word64) : (wireBytes 8 v).take 4 = wireBytes 4 (v.extractLsb 63 32) := by
  have hbyte (k : Nat) (hk : k < 4) : byteAt (v.extractLsb 63 32) k = byteAt v (k + 4) := by
    rw [byteAt, BitVec.extractLsb, extractLsb'_extractLsb' _ (by omega)]
    exact congrArg (BitVec.extractLsb' · 8 v) (by omega)
  simp [wireBytes, hbyte]

section Convert
variable (cfg : Cfg)

theorem convert64_convert64 (x : Word64) : convert64 cfg (convert64 cfg x) = x := by
  cases h : cfg.hostBe <;> simp [convert64, h]

theorem convert32_convert32 (x : Word32) : convert32 cfg (convert32 cfg x) = x := by
  cases h : cfg.hostBe <;> simp [convert32, h]

theorem convert16_convert16 (x : BitVec 16) : convert16 cfg (convert16 cfg x) = x := by
  cases h : cfg.hostBe <;> simp [convert16, h]

/-- A native store is a conversion to network order and then the wire bytes (41_endian.md R90). -/
theorem nativeStore64_eq (y : Word64) : nativeStore64 cfg.hostBe y = wireBytes 8 (convert64 cfg y) := rfl

/-- A native load is the wire value converted to host order. -/
theorem nativeLoad64_eq (bytes : List Byte) :
    nativeLoad64 cfg.hostBe bytes = convert64 cfg (BitVec.ofNat 64 (wireValue bytes)) := rfl

end Convert

namespace Machine
open Safety
variable (s : State) (x b : Word64)

theorem resOf_endHton64 : resOf .endHton64 s x b = convert64 s.cfg x := rfl

theorem resOf_endNtoh64 : resOf .endNtoh64 s x b = convert64 s.cfg x := rfl

theorem resOf_endHton32 : resOf .endHton32 s x b = zext64 (convert32 s.cfg (x.extractLsb' 0 32)) := rfl

theorem resOf_endNtoh32 : resOf .endNtoh32 s x b = zext64 (convert32 s.cfg (x.extractLsb' 0 32)) := rfl

theorem resOf_endHton16 : resOf .endHton16 s x b = zext64 (convert16 s.cfg (x.extractLsb' 0 16)) := rfl

theorem resOf_endNtoh16 : resOf .endNtoh16 s x b = zext64 (convert16 s.cfg (x.extractLsb' 0 16)) := rfl

/-- R82: the result is the reversed operand, and the status 0 leaves STICKY. -/
theorem exec_endSwap64 : exec .endSwap64 s = .next { s with
    reply := some { agent := s.issuer, res := bswap64 s.port.opa, st := stNone } } :=
  congrArg Host.Outcome.next (finish_stNone s _)

end Machine
end Sys2Proof
end

section
/-! The statements about byte order (00_scope.md R14, R15, 41_endian.md R82, R89, R90). -/
namespace Sys2Proof
open Machine Safety

/-- Settles O24: the reversals byte by byte, and the wire forms as inverses of each other. -/
theorem byteReversalAndWireBytes : Obligations.ByteReversalAndWireBytes := by
  refine ⟨byteAt_bswap16, byteAt_bswap32, byteAt_bswap64, bswap16_bswap16, bswap32_bswap32, bswap64_bswap64, wireValue_eq_sum,
    fun v n k => wireBytes_getElem? v, fun v n _ hv => ?_, fun bytes => wireBytes_wireValue⟩
  rw [wireValue_wireBytes, Nat.mod_eq_of_lt hv]

/-- Settles O26: `exec_endSwap64`, whose result is the reversal, never `convert64`. -/
theorem endSwap64ReversesTheBytes : Obligations.EndSwap64ReversesTheBytes :=
  ⟨soleWord_of_decode_ok (fun _ => Instr.noConfusion) rfl, bswap64, exec_endSwap64, byteAt_bswap64, bswap64_bswap64⟩

/-- Settles O33: at each width both ways are one conversion that undoes itself, and a number of the width is its low bits. -/
theorem networkOrderRoundTrips : Obligations.NetworkOrderRoundTrips := by
  refine ⟨fun s x b b' => ?_, fun s x b b' hx => ?_, fun s x b b' hx => ?_⟩
  · rw [resOf_endNtoh64, resOf_endHton64, convert64_convert64]
  · rw [resOf_endNtoh32, resOf_endHton32, extractLsb'_zext64 (by decide), convert32_convert32, zext64_extractLsb' (by decide) hx]
  · rw [resOf_endNtoh16, resOf_endHton16, extractLsb'_zext64 (by decide), convert16_convert16, zext64_extractLsb' (by decide) hx]

/-- Settles O34: native store and load each convert once more, which undoes the command's conversion. -/
theorem nativeStoreOfHton64GivesWireBytes : Obligations.NativeStoreOfHton64GivesWireBytes := by
  have hstore (s : State) (v b : Word64) : nativeStore64 s.cfg.hostBe (resOf .endHton64 s v b) = wireBytes 8 v := by
    rw [nativeStore64_eq, resOf_endHton64, convert64_convert64]
  refine ⟨hstore, fun s bytes b hlen => ?_, fun s v b => ?_⟩
  · have hlt := wireValue_lt bytes
    rw [hlen] at hlt
    rw [resOf_endNtoh64, nativeLoad64_eq, convert64_convert64, BitVec.toNat_ofNat]
    exact Nat.mod_eq_of_lt (by omega)
  · rw [hstore, wireBytes_take_four]

end Sys2Proof
end

section
/-!
Headers there and back (43_header.md R139): what unpacking makes of a packed header, and packing of an unpacked one.
-/
namespace Sys2Proof

section Bytes
variable {b b' : Byte}

/-- A byte with its three flags on top is those and its low five bits. -/
theorem byte_eq_of_high_flags (hhigh : b.getLsbD 7 = b'.getLsbD 7 ∧ b.getLsbD 6 = b'.getLsbD 6 ∧ b.getLsbD 5 = b'.getLsbD 5)
    (hlow : b.extractLsb' 0 5 = b'.extractLsb' 0 5) : b = b' := by
  obtain ⟨h7, h6, h5⟩ := hhigh
  refine BitVec.eq_of_getLsbD_eq fun i hi => ?_
  rcases Nat.lt_or_ge i 5 with h | h
  · simpa [h] using congrArg (BitVec.getLsbD · i) hlow
  · interval_cases i
    · exact h5
    · exact h6
    · exact h7

/-- A byte with its three flags at the bottom is those and its high five bits. -/
theorem byte_eq_of_low_flags (hlow : b.getLsbD 0 = b'.getLsbD 0 ∧ b.getLsbD 1 = b'.getLsbD 1 ∧ b.getLsbD 2 = b'.getLsbD 2)
    (hhigh : b.extractLsb' 3 5 = b'.extractLsb' 3 5) : b = b' := by
  obtain ⟨h0, h1, h2⟩ := hlow
  refine BitVec.eq_of_getLsbD_eq fun i hi => ?_
  rcases Nat.lt_or_ge i 3 with h | h
  · interval_cases i
    · exact h0
    · exact h1
    · exact h2
  · have hbit := congrArg (BitVec.getLsbD · (i - 3)) hhigh
    have hin : i - 3 < 5 := by omega
    simpa only [BitVec.getLsbD_extractLsb', hin, decide_true, Bool.true_and, Nat.add_sub_cancel' h] using hbit

end Bytes

/-- A header is its first byte, its opcode byte and its last two (R132). -/
theorem header_eq_append (hw : Word32) : hw.extractLsb' 24 8 ++ hw.extractLsb' 16 8 ++ hw.extractLsb' 0 16 = hw := by
  have hupper : hw.extractLsb' 24 8 ++ hw.extractLsb' 16 8 = hw.extractLsb' 16 16 :=
    BitVec.extractLsb'_append_extractLsb'_eq_extractLsb' rfl
  rw [hupper]
  exact (BitVec.extractLsb'_append_extractLsb'_eq_extractLsb' rfl).trans BitVec.extractLsb'_eq_self

section Length
variable (cfg : Cfg) (l : Word64)

theorem Cfg.esc_pos : 0 < cfg.esc := by
  cases h : cfg.hdrRev with
  | len8 => rw [cfg.esc_of_len8 h]; decide
  | len16 => rw [cfg.esc_of_len16 h]; decide

/-- The escape applies exactly past MAX_INLINE (R139). -/
theorem needsExtended_eq_decide : needsExtended cfg l = decide (cfg.maxInline < l.toNat) := by
  have hpos := cfg.esc_pos
  rw [needsExtended, Cfg.maxInline, decide_eq_decide]
  omega

/-- The length field is ESC exactly for an extended length. -/
theorem inlineLength_beq_esc : ((inlineLength cfg l).toNat == cfg.esc) = needsExtended cfg l := by
  rw [inlineLength_toNat]
  cases h : needsExtended cfg l with
  | true => simp
  | false =>
    have hlt := of_decide_eq_false h
    rw [if_neg Bool.false_ne_true, beq_eq_false_iff_ne]
    omega

/-- A length up to MAX_INLINE is its own length field. -/
theorem inlineLength_of_le {len : BitVec 16} (h : len.toNat ≤ cfg.maxInline) : inlineLength cfg (len.setWidth 64) = len := by
  have hwide : (len.setWidth 64).toNat = len.toNat := BitVec.toNat_setWidth_of_le (by decide)
  have hinline : needsExtended cfg (len.setWidth 64) = false := by
    rw [needsExtended_eq_decide, hwide]
    exact decide_eq_false (Nat.not_lt.mpr h)
  apply BitVec.eq_of_toNat_eq
  rw [inlineLength_toNat, hinline, if_neg Bool.false_ne_true, hwide]

/-- HDR_LEN reads the whole length field where it holds at most ESC. -/
theorem fwLen_fieldWord {h : HeaderFields} (hlen : h.len.toNat ≤ cfg.esc) : fwLen cfg (fieldWord cfg h) = h.len := by
  apply BitVec.eq_of_toNat_eq
  rw [fwLen_toNat]
  cases hrev : cfg.hdrRev with
  | len16 => exact congrArg BitVec.toNat (fieldWord_len cfg h)
  | len8 =>
    have hlow : (fieldWord cfg h).extractLsb 7 0 = h.len.extractLsb' 0 8 := by
      rw [← fieldWord_len cfg h]
      exact (BitVec.extractLsb'_extractLsb'_of_le (by decide)).symm
    rw [cfg.esc_of_len8 hrev] at hlen
    change ((fieldWord cfg h).extractLsb 7 0).toNat = _
    rw [hlow, BitVec.extractLsb'_toNat]
    exact Nat.mod_eq_of_lt (by omega)

/-- HDR_LEN finds the length back from the field word and the extended length (R139). -/
theorem selectLength_fieldWord {h : HeaderFields} (hlen : h.len = inlineLength cfg l) :
    selectLength cfg (fieldWord cfg h) l = l := by
  rw [selectLength, fwLen_fieldWord cfg (hlen ▸ inlineLength_le_esc cfg l), hlen, inlineLength_beq_esc]
  cases hext : needsExtended cfg l with
  | true => rfl
  | false =>
    apply BitVec.eq_of_toNat_eq
    rw [if_neg Bool.false_ne_true, zext64, BitVec.toNat_setWidth_of_le (by decide), inlineLength_toNat, hext,
      if_neg Bool.false_ne_true]

end Length

/-! Packing and then unpacking (R139, item 1). -/
section PackUnpack
variable (cfg : Cfg) (f l : Word64)

/-- The packed flags are read where they were put, and so is the RSV of zeros. -/
theorem unpackHeader_packResult_byte0 :
    ((unpackHeader cfg ((packResult cfg f l).extractLsb 31 0)).fin, (unpackHeader cfg ((packResult cfg f l).extractLsb 31 0)).rsp,
      (unpackHeader cfg ((packResult cfg f l).extractLsb 31 0)).mask) = (fwFin f, fwRsp f, fwMask f) ∧
    (unpackHeader cfg ((packResult cfg f l).extractLsb 31 0)).rsv = 0 := by
  rw [unpackHeader_flags, unpackHeader_rsv]
  have hpack := packResult_flags cfg f l
  cases h : cfg.flagOrder with
  | msbFirst | lsbFirst =>
    rw [h] at hpack
    obtain ⟨hfin, hrsp, hmask, hrsv⟩ := hpack
    exact ⟨Prod.ext hfin (Prod.ext hrsp hmask), hrsv⟩

/-- The packed length field is read where it was put, and so is the PAD of zeros. -/
theorem unpackHeader_packResult_length :
    (unpackHeader cfg ((packResult cfg f l).extractLsb 31 0)).len = inlineLength cfg l ∧
    (unpackHeader cfg ((packResult cfg f l).extractLsb 31 0)).pad = 0 := by
  rw [unpackHeader_len, unpackHeader_pad]
  have hpack := packResult_length cfg l f
  cases h : cfg.hdrRev with
  | len16 =>
    rw [h] at hpack
    exact ⟨BitVec.eq_of_toNat_eq hpack, rfl⟩
  | len8 =>
    rw [h] at hpack
    obtain ⟨hlen, hpad⟩ := hpack
    exact ⟨BitVec.eq_of_toNat_eq ((BitVec.toNat_setWidth_of_le (by decide)).trans hlen), hpad⟩

end PackUnpack

/-! Unpacking and then packing (R139, item 2). -/
section UnpackPack
variable (cfg : Cfg)

theorem fwFlags_fieldWord (h : HeaderFields) :
    fwFin (fieldWord cfg h) = h.fin ∧ fwRsp (fieldWord cfg h) = h.rsp ∧ fwMask (fieldWord cfg h) = h.mask := by
  obtain ⟨hfin, hflags⟩ := Prod.ext_iff.mp (fieldWord_flags cfg h)
  obtain ⟨hrsp, hmask⟩ := Prod.ext_iff.mp hflags
  exact ⟨hfin, hrsp, hmask⟩

theorem unpackHeader_byte0_of_msbFirst (h : cfg.flagOrder = .msbFirst) (hw : Word32) :
    (unpackHeader cfg hw).fin = (hw.extractLsb' 24 8).getLsbD 7 ∧ (unpackHeader cfg hw).rsp = (hw.extractLsb' 24 8).getLsbD 6 ∧
      (unpackHeader cfg hw).mask = (hw.extractLsb' 24 8).getLsbD 5 ∧
      (unpackHeader cfg hw).rsv = (hw.extractLsb' 24 8).extractLsb' 0 5 := by
  unfold unpackHeader
  rw [h]
  exact ⟨rfl, rfl, rfl, rfl⟩

theorem unpackHeader_byte0_of_lsbFirst (h : cfg.flagOrder = .lsbFirst) (hw : Word32) :
    (unpackHeader cfg hw).fin = (hw.extractLsb' 24 8).getLsbD 0 ∧ (unpackHeader cfg hw).rsp = (hw.extractLsb' 24 8).getLsbD 1 ∧
      (unpackHeader cfg hw).mask = (hw.extractLsb' 24 8).getLsbD 2 ∧
      (unpackHeader cfg hw).rsv = (hw.extractLsb' 24 8).extractLsb' 3 5 := by
  unfold unpackHeader
  rw [h]
  exact ⟨rfl, rfl, rfl, rfl⟩

/-- The spec's RSV bits of a header are the ones HDR_UNPACK reads (R132, R135). -/
theorem reservedBitsClear_iff (hw : Word32) : Safety.reservedBitsClear cfg hw = true ↔ (unpackHeader cfg hw).rsv = 0 := by
  unfold Safety.reservedBitsClear
  cases h : cfg.flagOrder with
  | msbFirst =>
    obtain ⟨-, -, -, hrsv⟩ := unpackHeader_byte0_of_msbFirst cfg h hw
    rw [hrsv, extractLsb'_extractLsb' hw (by decide)]
    exact beq_iff_eq
  | lsbFirst =>
    obtain ⟨-, -, -, hrsv⟩ := unpackHeader_byte0_of_lsbFirst cfg h hw
    rw [hrsv, extractLsb'_extractLsb' hw (by decide)]
    exact beq_iff_eq

/-- Header byte 0 is packed back from the flags it was unpacked to where RSV is 0. -/
theorem packByte0_fieldWord {hw : Word32} (hclear : (unpackHeader cfg hw).rsv = 0) :
    packByte0 cfg (fieldWord cfg (unpackHeader cfg hw)) = hw.extractLsb' 24 8 := by
  obtain ⟨hfin, hrsp, hmask⟩ := fwFlags_fieldWord cfg (unpackHeader cfg hw)
  cases h : cfg.flagOrder with
  | msbFirst =>
    obtain ⟨hpfin, hprsp, hpmask, hprsv⟩ := packByte0_of_msbFirst cfg (fieldWord cfg (unpackHeader cfg hw)) h
    obtain ⟨hufin, hursp, humask, hursv⟩ := unpackHeader_byte0_of_msbFirst cfg h hw
    rw [hfin, hufin] at hpfin
    rw [hrsp, hursp] at hprsp
    rw [hmask, humask] at hpmask
    exact byte_eq_of_high_flags ⟨hpfin, hprsp, hpmask⟩ (hprsv.trans (hclear.symm.trans hursv))
  | lsbFirst =>
    obtain ⟨hpfin, hprsp, hpmask, hprsv⟩ := packByte0_of_lsbFirst cfg (fieldWord cfg (unpackHeader cfg hw)) h
    obtain ⟨hufin, hursp, humask, hursv⟩ := unpackHeader_byte0_of_lsbFirst cfg h hw
    rw [hfin, hufin] at hpfin
    rw [hrsp, hursp] at hprsp
    rw [hmask, humask] at hpmask
    exact byte_eq_of_low_flags ⟨hpfin, hprsp, hpmask⟩ (hprsv.trans (hclear.symm.trans hursv))

/-- The last two header bytes are packed back from the length field where PAD is 0 and the length is inline. -/
theorem packLow_len {hw : Word32} (hpad : cfg.hdrRev = .len8 → hw.extractLsb' 0 8 = 0)
    (hlen : (unpackHeader cfg hw).len.toNat ≤ cfg.maxInline) :
    packLow cfg ((unpackHeader cfg hw).len.setWidth 64) = hw.extractLsb' 0 16 := by
  have hhalves : hw.extractLsb' 8 8 ++ hw.extractLsb' 0 8 = hw.extractLsb' 0 16 :=
    BitVec.extractLsb'_append_extractLsb'_eq_extractLsb' rfl
  rw [packLow, inlineLength_of_le cfg hlen, ← hhalves]
  unfold unpackHeader
  cases h : cfg.hdrRev with
  | len16 => rfl
  | len8 =>
    rw [hpad h]
    exact congrArg (· ++ (0 : Byte)) ((BitVec.extractLsb'_setWidth_of_le (by decide)).trans BitVec.extractLsb'_eq_self)

theorem extractLsb_packResult (f l : Word64) : (packResult cfg f l).extractLsb 31 0 = packHeader cfg f l :=
  (BitVec.extractLsb'_setWidth_of_le (by decide)).trans BitVec.extractLsb'_append_eq_right

theorem packResult_fieldWord {hw : Word32} (hclear : (unpackHeader cfg hw).rsv = 0)
    (hpad : cfg.hdrRev = .len8 → hw.extractLsb' 0 8 = 0) (hlen : (unpackHeader cfg hw).len.toNat ≤ cfg.maxInline) :
    (packResult cfg (fieldWord cfg (unpackHeader cfg hw)) ((unpackHeader cfg hw).len.setWidth 64)).extractLsb 31 0 = hw := by
  have hop : fwOpcode (fieldWord cfg (unpackHeader cfg hw)) = hw.extractLsb' 16 8 := fieldWord_opcode cfg _
  rw [extractLsb_packResult, packHeader_eq_append, packByte0_fieldWord cfg hclear, hop, packLow_len cfg hpad hlen,
    header_eq_append]

/-- Under MSB_FIRST, FW[31:24] is header byte 0. -/
theorem fieldWord_byte0_of_msbFirst (h : cfg.flagOrder = .msbFirst) (hw : Word32) :
    (fieldWord cfg (unpackHeader cfg hw)).extractLsb' 24 8 = hw.extractLsb' 24 8 := by
  obtain ⟨hfin, hrsp, hmask⟩ := fwFlags_fieldWord cfg (unpackHeader cfg hw)
  obtain ⟨hufin, hursp, humask, hursv⟩ := unpackHeader_byte0_of_msbFirst cfg h hw
  have hbit {k : Nat} (hk : k < 8) : ((fieldWord cfg (unpackHeader cfg hw)).extractLsb' 24 8).getLsbD k =
      (fieldWord cfg (unpackHeader cfg hw)).getLsbD (24 + k) := by simp [hk]
  refine byte_eq_of_high_flags ⟨?_, ?_, ?_⟩ ?_
  · exact (hbit (by decide)).trans (hfin.trans hufin)
  · exact (hbit (by decide)).trans (hrsp.trans hursp)
  · exact (hbit (by decide)).trans (hmask.trans humask)
  · rw [← hursv, extractLsb'_extractLsb' _ (by decide)]
    exact fieldWord_rsv cfg _

/-- R133: under LEN16 and MSB_FIRST the field word's low half is the header. -/
theorem extractLsb_fieldWord_of_default (hrev : cfg.hdrRev = .len16) (hflag : cfg.flagOrder = .msbFirst) (hw : Word32) :
    (fieldWord cfg (unpackHeader cfg hw)).extractLsb' 0 32 = hw := by
  have hslice {start len : Nat} (h : start + len ≤ 32) :
      ((fieldWord cfg (unpackHeader cfg hw)).extractLsb' 0 32).extractLsb' start len =
        (fieldWord cfg (unpackHeader cfg hw)).extractLsb' start len :=
    BitVec.extractLsb'_extractLsb'_of_le h
  have hop : (fieldWord cfg (unpackHeader cfg hw)).extractLsb' 16 8 = hw.extractLsb' 16 8 := fieldWord_opcode cfg _
  have hlen : (fieldWord cfg (unpackHeader cfg hw)).extractLsb' 0 16 = hw.extractLsb' 0 16 := by
    refine (fieldWord_len cfg _).trans ?_
    unfold unpackHeader
    rw [hrev]
    exact BitVec.extractLsb'_append_extractLsb'_eq_extractLsb' rfl
  rw [← header_eq_append (BitVec.extractLsb' _ _ _), hslice (by decide), hslice (by decide), hslice (by decide),
    fieldWord_byte0_of_msbFirst cfg hflag, hop, hlen, header_eq_append]

end UnpackPack

end Sys2Proof
end

section
/-! The statements about packing and unpacking in a row (43_header.md R133, R139). -/
namespace Sys2Proof
open Machine Safety

/-- Settles O39: the packed header unpacks to the fields packed, whose field word and length are read off. -/
theorem packUnpackRoundTrip : Obligations.PackUnpackRoundTrip := by
  intro s f l b _
  have hu : resOf .hdrUnpack s (((resOf .hdrPack s f l).extractLsb 31 0).setWidth 64) b =
      fieldWord s.cfg (unpackHeader s.cfg ((packResult s.cfg f l).extractLsb 31 0)) :=
    congrArg (fun hw => fieldWord s.cfg (unpackHeader s.cfg hw)) (extractLsb_zext64 _)
  obtain ⟨hflags, hrsv⟩ := unpackHeader_packResult_byte0 s.cfg f l
  obtain ⟨hlen, hpad⟩ := unpackHeader_packResult_length s.cfg f l
  have hop := (unpackHeader_opcode s.cfg (packResult s.cfg f l)).trans (packResult_opcode s.cfg f l)
  obtain ⟨hfin, hflags⟩ := Prod.ext_iff.mp ((fieldWord_flags s.cfg _).trans hflags)
  obtain ⟨hrsp, hmask⟩ := Prod.ext_iff.mp hflags
  refine ⟨_, _, rfl, rfl, ?_⟩
  rw [hu, resOf_hdrPack]
  refine ⟨hfin, hrsp, hmask, (fieldWord_opcode _ _).trans hop, (fieldWord_rsv _ _).trans hrsv, (fieldWord_pad _ _).trans hpad,
    ?_, (packResult_ext _ _ _).trans (needsExtended_eq_decide _ _), selectLength_fieldWord _ _ hlen⟩
  rw [fieldWord_ext, packResult_ext, HeaderFields.ext, hlen, inlineLength_beq_esc]

/-- Settles O40: packing the unpacked header puts its bytes back, and under the default configuration FW has them in place. -/
theorem unpackPackRoundTrip : Obligations.UnpackPackRoundTrip := by
  refine ⟨fun s hw b hclear hpad => ⟨_, rfl, ?_⟩, fun s a b hrev hflag => ?_⟩
  · have hu : resOf .hdrUnpack s (hw.setWidth 64) b = fieldWord s.cfg (unpackHeader s.cfg hw) :=
      congrArg (fun hw => fieldWord s.cfg (unpackHeader s.cfg hw)) (extractLsb_zext64 hw)
    rw [hu, fieldWord_len, resOf_hdrPack]
    exact packResult_fieldWord s.cfg ((reservedBitsClear_iff s.cfg hw).mp hclear) hpad
  · exact extractLsb_fieldWord_of_default s.cfg hrev hflag _

end Sys2Proof
end

section
/-!
What a command reads of the host's byte order and of STICKY (20_memory.md R39, R43), and how a turn takes its command from the
agents' queues (R44).
-/
namespace Sys2Proof.Machine

/-- R39, with ID's readback (assumption log entry 7): no other command's values read HOST_BE, since the header unit reads
HDR_REV and FLAG_ORDER only. -/
theorem exec_withHostBe {i : Instr} {s t : State} (b : Bool)
    (hi : i ∉ [Instr.ident, .endProbe, .endHton64, .endNtoh64, .endHton32, .endNtoh32, .endHton16, .endNtoh16])
    (h : exec i s = .next t) :
    exec i { s with cfg := { s.cfg with hostBe := b } } = .next { t with cfg := { s.cfg with hostBe := b } } := by
  cases i with
  | ident | endProbe | endHton64 | endNtoh64 | endHton32 | endNtoh32 | endHton16 | endNtoh16 => exact absurd (by decide) hi
  | crcFeed n =>
    by_cases hn : feedCount n = true
    · obtain rfl := Host.Outcome.next.inj ((if_pos hn).symm.trans h)
      exact if_pos hn
    · obtain rfl := Host.Outcome.next.inj ((if_neg hn).symm.trans h)
      exact if_neg hn
  | _ =>
    cases h
    rfl

/-- Finishing twice with the same outputs is finishing once: STICKY has the error bits already. -/
theorem finish_finish (s : State) (res : Word64) (st : Byte) : (s.finish res st).finish res st = s.finish res st := by
  have hsticky : accumulate (accumulate s.sticky st) st = accumulate s.sticky st := by
    simp only [accumulate, BitVec.or_assoc, BitVec.or_self]
  exact congrArg (fun sticky => { s.finish res st with sticky := sticky }) hsticky

/-- R43: a command that only finishes, with outputs that read no STICKY, does the same again. -/
theorem exec_again {i : Instr} {s t : State}
    (hi : i ∈ [Instr.nop, .ident, .statRd, .crcRead, .crcCheck, .crcTab, .endProbe, .endSwap64, .endHton64, .endNtoh64,
      .endHton32, .endNtoh32, .endHton16, .endNtoh16, .hdrUnpack, .hdrPack, .hdrLen])
    (h : exec i s = .next t) : exec i t = .next t ∧ t.crc = s.crc := by
  cases i with
  | statClr | crcInit | crcFeed n => simp at hi
  | statRd =>
    cases h
    refine ⟨congrArg Host.Outcome.next ?_, rfl⟩
    rw [State.finish_sticky, State.accumulate_stNone, finish_finish]
  | _ =>
    cases h
    exact ⟨congrArg Host.Outcome.next (finish_finish s _ _), rfl⟩

theorem State.nextOf_eq_some {s : State} {k : Nat} {c : Transaction} {cs : List Transaction}
    (h : s.agents[k]? = some (c :: cs)) : s.nextOf k = some c := by
  simp [State.nextOf, h]

theorem issued_length (agents : List (List Transaction)) (k : Nat) : (issued agents k).length = agents.length :=
  List.length_modify _ _ _

/-- The frame of the command on the port, legal or not: configuration, port inputs and the host's queues are as before. -/
theorem runCommand_frame {s t : State} (h : runCommand s = .next t) :
    t.cfg = s.cfg ∧ t.port = s.port ∧ t.issuer = s.issuer ∧ t.agents = s.agents ∧ t.order = s.order := by
  cases hd : decode s.port.cmd with
  | ok i =>
    obtain ⟨hcfg, hport, hissuer, hagents, horder, -⟩ := exec_frame i s t ((runCommand_of_decode_ok hd).symm.trans h)
    exact ⟨hcfg, hport, hissuer, hagents, horder⟩
  | error e =>
    obtain rfl := Host.Outcome.next.inj ((runCommand_of_decode_error hd).symm.trans h)
    exact ⟨rfl, rfl, rfl, rfl, rfl⟩

end Sys2Proof.Machine
end

section
/-! The statements about the port (30_encoding.md R50), the host's byte order and repeated commands (20_memory.md R39, R43), and
the agents' own orders (R44). -/
namespace Sys2Proof
open Machine Safety

/-- Settles O51: `exec_withHostBe`. -/
theorem hostOrderMattersOnlyToConversions : Obligations.HostOrderMattersOnlyToConversions :=
  fun _ _ _ b hi h => exec_withHostBe b hi h

/-- Settles O53: `exec_again`. -/
theorem repeatedCommandsAreIdempotent : Obligations.RepeatedCommandsAreIdempotent :=
  fun _ _ _ hi h => exec_again hi h

/-- Settles O54: the port takes the agent's command from its queue, and what runs leaves the queues and the order. -/
theorem eachAgentKeepsItsOrder : Obligations.EachAgentKeepsItsOrder := by
  intro s t k rest c cs ho hk h
  obtain ⟨-, hport, hissuer, hagents, horder⟩ :=
    runCommand_frame ((step_of_agent ho (State.nextOf_eq_some hk)).symm.trans h)
  rw [State.accept_agents] at hagents
  rw [hagents]
  refine ⟨hport, hissuer, horder, ?_, issued_length _ _, fun j hj => ?_⟩
  · rw [issued_getElem?, if_pos rfl, hk]
    rfl
  · rw [issued_getElem?, if_neg hj]

/-- Settles O4: a turn runs the command it takes, and a placed command is agent 0's next in the next turn. -/
theorem stepRunsTheCommandOnThePort : Obligations.StepRunsTheCommandOnThePort := by
  refine ⟨fun s k rest c i => step_of_agent_decode_ok, fun s nbits w i hi => ?_⟩
  have hd : decode (transactionOfBits (w % 2 ^ nbits)).cmd = .ok i := by
    cases hd : decode (BitVec.ofNat 32 (w % 2 ^ nbits)) with
    | ok j =>
      rw [decodeTableWord, hd] at hi
      exact hd.trans (congrArg Except.ok (Option.some.inj hi))
    | error e =>
      rw [decodeTableWord, hd] at hi
      exact nomatch hi
  refine ⟨_, step_of_agent_decode_ok (s := s.withFetchWord nbits w) rfl (nextOf_issueNext s _) hd, rfl, rfl, rfl, rfl, rfl, rfl,
    fun hne => ?_⟩
  obtain ⟨q, qs, hq⟩ := List.exists_cons_of_ne_nil hne
  rw [State.accept_agents, State.withFetchWord, State.issueNext_agents, hq, issued_queueFirst]

end Sys2Proof
end

section
/-!
Runs over a total order (20_memory.md R44, R45): what one command makes of CRC, what one turn does, and the run to the
order's end.
-/
namespace Sys2Proof.Machine
open Safety

/-- CRC_FEED alone has the OP 0x11 (R55). -/
theorem eq_crcFeed_of_opcode {i : Instr} (h : i.opcode = 0x11) : ∃ n, i = .crcFeed n := by
  cases i with
  | crcFeed n => exact ⟨n, rfl⟩
  | _ => exact absurd h (by decide)

/-- The words that write CRC are those of CRC_INIT and CRC_FEED (10_state.md R24). -/
theorem writesCrc_iff (w : Word32) : writesCrc w = true ↔ decode w = .ok .crcInit ∨ ∃ n, decode w = .ok (.crcFeed n) := by
  change (w == 0x00000010 || (cmdOp w == 0x11 && legal w)) = true ↔ _
  rw [Bool.or_eq_true, Bool.and_eq_true, beq_iff_eq, beq_iff_eq, legal_iff_exists_decode_ok]
  constructor
  · rintro (rfl | ⟨hop, i, hd⟩)
    · exact .inl rfl
    · rw [← (encode_of_decode_ok hd).1, cmdOp_encode] at hop
      obtain ⟨n, rfl⟩ := eq_crcFeed_of_opcode hop
      exact .inr ⟨n, hd⟩
  · rintro (hd | ⟨n, hd⟩)
    · exact .inl (encode_of_decode_ok hd).1.symm
    · refine .inr ⟨?_, _, hd⟩
      rw [← (encode_of_decode_ok hd).1, cmdOp_encode]
      rfl

section Effect
variable {c : Transaction} (v : Word32)

theorem crcEffect_of_not_writesCrc (h : writesCrc c.cmd = false) : crcEffect c v = v := by
  have hinit : c.cmd ≠ 0x00000010 := by
    intro heq
    rw [heq] at h
    exact nomatch h
  rw [crcEffect, if_neg hinit, h, if_neg Bool.false_ne_true]

theorem crcEffect_of_crcInit (h : decode c.cmd = .ok .crcInit) : crcEffect c v = c.opa.extractLsb 31 0 :=
  if_pos (encode_of_decode_ok h).1.symm

theorem crcEffect_of_crcFeed {n : BitVec 4} (h : decode c.cmd = .ok (.crcFeed n)) :
    crcEffect c v = calculate v (wireBytes n.toNat c.opa) := by
  have hinit : c.cmd ≠ 0x00000010 := by
    intro heq
    rw [heq] at h
    exact nomatch h
  have hn : cmdN c.cmd = n := by
    rw [← (encode_of_decode_ok h).1, cmdN_encode]
    rfl
  rw [crcEffect, if_neg hinit, if_pos ((writesCrc_iff _).mpr (.inr ⟨n, h⟩))]
  exact congrArg (fun m => calculate v (wireBytes (BitVec.toNat m) c.opa)) hn

end Effect

/-- What the command on the port makes of CRC is its effect in the total order. -/
theorem runCommand_crc {s t : State} (h : runCommand s = .next t) : t.crc = crcEffect s.port s.crc := by
  cases hw : writesCrc s.port.cmd with
  | true =>
    obtain hd | ⟨n, hd⟩ := (writesCrc_iff _).mp hw
    · rw [crcEffect_of_crcInit _ hd]
      obtain rfl := Host.Outcome.next.inj ((exec_crcInit s).symm.trans ((runCommand_of_decode_ok hd).symm.trans h))
      rfl
    · have hn : feedCount n = true := (encode_of_decode_ok hd).2
      rw [crcEffect_of_crcFeed _ hd]
      obtain rfl := Host.Outcome.next.inj ((exec_crcFeed hn s).symm.trans ((runCommand_of_decode_ok hd).symm.trans h))
      rfl
  | false =>
    rw [crcEffect_of_not_writesCrc _ hw]
    cases hd : decode s.port.cmd with
    | error e =>
      obtain rfl := Host.Outcome.next.inj ((runCommand_of_decode_error hd).symm.trans h)
      rfl
    | ok i =>
      refine not_not.mp fun hne => Bool.false_ne_true (hw.symm.trans ((writesCrc_iff _).mpr ?_))
      rw [hd]
      simpa only [Except.ok.injEq] using exec_crc_source ((runCommand_of_decode_ok hd).symm.trans h) hne

section Turn
variable {agents : List (List Transaction)} {k : Nat} (rest : List Turn) (v : Word32)

theorem crcAfter_agent {c : Transaction} {cs : List Transaction} (h : agents[k]? = some (c :: cs)) :
    crcAfter (.agent k :: rest) agents v = crcAfter rest (issued agents k) (crcEffect c v) := by
  simp only [crcAfter, h]

theorem crcAfter_agent_pass (h : ∀ c cs, agents[k]? ≠ some (c :: cs)) :
    crcAfter (.agent k :: rest) agents v = crcAfter rest agents v := by
  rw [crcAfter]
  split
  · exact absurd ‹_› (h _ _)
  · rfl
  · rfl

end Turn

theorem State.nextOf_eq_none {s : State} {k : Nat} (h : ∀ c cs, s.agents[k]? ≠ some (c :: cs)) : s.nextOf k = none := by
  rw [State.nextOf]
  split
  · exact absurd ‹_› (h _ _)
  · rfl
  · rfl

/-- One entry of the order is served: the effect of the order from there on is that of its rest from the next state. -/
theorem step_serves {s : State} {turn : Turn} {rest : List Turn} (ho : s.order = turn :: rest) :
    ∃ t, step s = .next t ∧ t.order = rest ∧ t.cfg = s.cfg ∧
      crcAfter (turn :: rest) s.agents s.crc = crcAfter rest t.agents t.crc := by
  cases turn with
  | agent k =>
    by_cases hk : ∃ c cs, s.agents[k]? = some (c :: cs)
    · obtain ⟨c, cs, hk⟩ := hk
      obtain ⟨t, ht⟩ := step_completes s
      have hrun := (step_of_agent ho (State.nextOf_eq_some hk)).symm.trans ht
      obtain ⟨hcfg, -, -, hagents, horder⟩ := runCommand_frame hrun
      refine ⟨t, ht, horder, hcfg, ?_⟩
      rw [crcAfter_agent rest _ hk, hagents, runCommand_crc hrun]
      rfl
    · have hpass : ∀ c cs, s.agents[k]? ≠ some (c :: cs) := fun c cs h => hk ⟨c, cs, h⟩
      exact ⟨_, step_of_agent_none ho (State.nextOf_eq_none hpass), rfl, rfl, crcAfter_agent_pass rest _ hpass⟩
  | reset => exact ⟨_, step_of_reset ho, rfl, rfl, rfl⟩
  | resetDuring k => exact ⟨_, step_of_resetDuring ho, rfl, rfl, rfl⟩
  | powerLoss => exact ⟨_, step_of_powerLoss ho, rfl, rfl, rfl⟩

theorem run_succ {s t : State} (h : step s = .next t) (n : Nat) :
    Host.Core.run core (n + 1) s = Host.Core.run core n t := by
  have hcore : core.step s = .next t := h
  simp only [Host.Core.run, hcore]

theorem run_add {m : Nat} {s t : State} (h : Host.Core.run core m s = .next t) (n : Nat) :
    Host.Core.run core (m + n) s = Host.Core.run core n t := by
  induction m generalizing s with
  | zero =>
    obtain rfl := Host.Outcome.next.inj h
    rw [Nat.zero_add]
  | succ m ih =>
    obtain ⟨u, hu⟩ := step_completes s
    rw [run_succ hu] at h
    rw [Nat.add_right_comm, run_succ hu, ih h]

/-- Served to its end, an order leaves CRC at its effect. -/
theorem run_order (s : State) : ∃ t : State, Host.Core.run core s.order.length s = .next t ∧
    t.crc = crcAfter s.order s.agents s.crc ∧ t.order = [] ∧ t.cfg = s.cfg := by
  generalize ho : s.order = order
  induction order generalizing s with
  | nil => exact ⟨s, rfl, rfl, ho, rfl⟩
  | cons turn rest ih =>
    obtain ⟨u, hu, horder, hcfg, hcrc⟩ := step_serves ho
    obtain ⟨t, ht, htcrc, htorder, htcfg⟩ := ih u horder
    exact ⟨t, (run_succ hu _).trans ht, htcrc.trans hcrc.symm, htorder, htcfg.trans hcfg⟩

/-- No agent but `k` has a command that writes CRC (70_reset_and_hazards.md R184). -/
def OthersWriteNoCrc (k : Nat) (agents : List (List Transaction)) : Prop :=
  ∀ (j : Nat) (q : List Transaction), j ≠ k → agents[j]? = some q → ∀ c ∈ q, writesCrc c.cmd = false

theorem OthersWriteNoCrc.issued {k : Nat} {agents : List (List Transaction)} (h : OthersWriteNoCrc k agents) (j : Nat) :
    OthersWriteNoCrc k (issued agents j) := by
  intro m q hm hq c hc
  rw [issued_getElem?] at hq
  split at hq
  · obtain ⟨q', hq', rfl⟩ := Option.map_eq_some_iff.mp hq
    exact h m q' hm hq' c (List.mem_of_mem_tail hc)
  · exact h m q hm hq c hc

/-- Turns of agents that write no CRC leave the effect of the order to agent `k`'s turns, whatever the others' queues are. -/
theorem crcAfter_onlyAgent {k : Nat} {order : List Turn} (hturns : ∀ u ∈ order, ∃ j, u = .agent j)
    {agents agents' : List (List Transaction)} (hk : agents[k]? = agents'[k]?) (hothers : OthersWriteNoCrc k agents)
    (v : Word32) : crcAfter order agents v = crcAfter (order.filter (· == .agent k)) agents' v := by
  induction order generalizing agents agents' v with
  | nil => rfl
  | cons turn rest ih =>
    obtain ⟨⟨j, rfl⟩, hrest⟩ := List.forall_mem_cons.mp hturns
    by_cases hj : j = k
    · subst hj
      rw [List.filter_cons_of_pos (by simp)]
      by_cases hnext : ∃ c cs, agents[j]? = some (c :: cs)
      · obtain ⟨c, cs, hc⟩ := hnext
        rw [crcAfter_agent _ _ hc, crcAfter_agent _ _ (hk ▸ hc)]
        refine ih hrest ?_ (hothers.issued j) _
        rw [issued_getElem?, issued_getElem?, hk]
      · have hpass : ∀ c cs, agents[j]? ≠ some (c :: cs) := fun c cs h => hnext ⟨c, cs, h⟩
        rw [crcAfter_agent_pass _ _ hpass, crcAfter_agent_pass _ _ (hk ▸ hpass)]
        exact ih hrest hk hothers v
    · rw [List.filter_cons_of_neg (by simpa using hj)]
      by_cases hnext : ∃ c cs, agents[j]? = some (c :: cs)
      · obtain ⟨c, cs, hc⟩ := hnext
        rw [crcAfter_agent _ _ hc, crcEffect_of_not_writesCrc _ (hothers j _ hj hc c List.mem_cons_self)]
        refine ih hrest ?_ (hothers.issued j) v
        rw [issued_getElem?, if_neg (Ne.symm hj), hk]
      · rw [crcAfter_agent_pass _ _ fun c cs h => hnext ⟨c, cs, h⟩]
        exact ih hrest hk hothers v

end Sys2Proof.Machine
end

section
/-! The statements about whole orders (20_memory.md R44, R45, 70_reset_and_hazards.md R181, R184). -/
namespace Sys2Proof
open Machine Safety

/-- Settles O55: `run_order`, by induction on the order, one `step_serves` each. -/
theorem crcFollowsTheTotalOrder : Obligations.CrcFollowsTheTotalOrder :=
  run_order

/-- Settles O56: both runs end at the effects of their orders, which agree by `crcAfter_onlyAgent`. -/
theorem exclusiveCrcOwnershipSuffices : Obligations.ExclusiveCrcOwnershipSuffices := by
  intro s k hturns hothers
  obtain ⟨t, ht, hcrc, -⟩ := run_order s
  obtain ⟨t₀, ht₀, hcrc₀, -⟩ := run_order (onlyAgent k s)
  exact ⟨t, t₀, ht, ht₀, hcrc.trans ((crcAfter_onlyAgent hturns rfl hothers s.crc).trans hcrc₀.symm)⟩

end Sys2Proof
end

section
/-!
Command sequences that write CRC (42_crc.md R104, R116): one agent's commands run in turn, and which of them feed which bytes.
-/
namespace Sys2Proof.Machine
open Safety

/-- One agent waits with the commands `cs` and has a turn for each of them. -/
def Waiting (cs : List Transaction) (s : State) : Prop :=
  s.agents = [cs] ∧ s.order = List.replicate cs.length (.agent 0)

theorem waiting_running (cs : List Transaction) (s : State) : Waiting cs (running cs s) := ⟨rfl, rfl⟩

/-- The step of a waiting agent runs its first command, and it then waits with the others. -/
theorem Waiting.step {c : Transaction} {cs : List Transaction} {s : State} (hw : Waiting (c :: cs) s) :
    ∃ t, step s = .next t ∧ runCommand (s.accept 0 c (List.replicate cs.length (.agent 0))) = .next t ∧ Waiting cs t := by
  obtain ⟨hagents, horder⟩ := hw
  have hnext : s.nextOf 0 = some c := State.nextOf_eq_some (cs := cs) (by rw [hagents]; rfl)
  obtain ⟨t, ht⟩ := step_completes s
  have hrun := (step_of_agent horder hnext).symm.trans ht
  obtain ⟨-, -, -, htagents, htorder⟩ := runCommand_frame hrun
  refine ⟨t, ht, hrun, htagents.trans ?_, htorder⟩
  rw [State.accept_agents, hagents]
  rfl

/-- A command that writes CRC reports no error. -/
theorem runCommand_sticky_of_writesCrc {s t : State} (hw : writesCrc s.port.cmd = true) (h : runCommand s = .next t) :
    t.sticky = s.sticky := by
  refine not_not.mp fun hne => ?_
  have hsource {i : Instr} (hd : decode s.port.cmd = .ok i) :=
    exec_sticky_source (encode_of_decode_ok hd).2 ((runCommand_of_decode_ok hd).symm.trans h) hne
  obtain hd | ⟨n, hd⟩ := (writesCrc_iff _).mp hw
  · simpa using hsource hd
  · simpa using hsource hd

/-- What a sequence of commands makes of CRC. -/
def effectOf (cs : List Transaction) (v : Word32) : Word32 := cs.foldl (fun v c => crcEffect c v) v

/-- Commands that write CRC run in turn to their joint effect and leave STICKY and the commands behind them. -/
theorem Waiting.run {cs ds : List Transaction} (hcs : ∀ c ∈ cs, writesCrc c.cmd = true) {s : State} (hw : Waiting (cs ++ ds) s) :
    ∃ t : State, Host.Core.run core cs.length s = .next t ∧ t.crc = effectOf cs s.crc ∧ t.sticky = s.sticky ∧ t.cfg = s.cfg ∧
      Waiting ds t := by
  induction cs generalizing s with
  | nil => exact ⟨s, rfl, rfl, rfl, rfl, hw⟩
  | cons c cs ih =>
    obtain ⟨hc, hcs⟩ := List.forall_mem_cons.mp hcs
    obtain ⟨u, hu, hrun, hwu⟩ := Waiting.step hw
    obtain ⟨hcfg, -⟩ := runCommand_frame hrun
    obtain ⟨t, ht, hcrc, hsticky, htcfg, hwt⟩ := ih hcs hwu
    have husticky := runCommand_sticky_of_writesCrc (s := s.accept 0 c _) hc hrun
    refine ⟨t, (run_succ hu _).trans ht, ?_, hsticky.trans husticky, htcfg.trans hcfg, hwt⟩
    rw [hcrc, runCommand_crc hrun]
    rfl

/-- The commands write CRC and have the effect of feeding `bytes`. -/
structure Feeds (cs : List Transaction) (bytes : List Byte) : Prop where
  writes : ∀ c ∈ cs, writesCrc c.cmd = true
  effect : ∀ v, effectOf cs v = calculate v bytes

theorem Feeds.nil : Feeds [] [] where
  writes := nofun
  effect v := (calculate_nil v).symm

theorem Feeds.append {cs ds : List Transaction} {a b : List Byte} (hc : Feeds cs a) (hd : Feeds ds b) :
    Feeds (cs ++ ds) (a ++ b) where
  writes := List.forall_mem_append.mpr ⟨hc.writes, hd.writes⟩
  effect v := by
    rw [effectOf, List.foldl_append, ← calculate_append, ← hc.effect, ← hd.effect]
    rfl

theorem Feeds.ite {cs : List Transaction} {a : List Byte} (h : Feeds cs a) (p : Bool) :
    Feeds (if p then cs else []) (if p then a else []) := by
  cases p
  · exact Feeds.nil
  · exact h

/-- A count of 1 to 8 fits the field N. -/
theorem ofNat_count_toNat {n : Nat} (h8 : n ≤ 8) : (BitVec.ofNat 4 n).toNat = n := by
  rw [BitVec.toNat_ofNat]
  omega

theorem decode_feedCommand {n : Nat} (h1 : 1 ≤ n) (h8 : n ≤ 8) (a : Word64) :
    decode (feedCommand n a).cmd = .ok (.crcFeed (BitVec.ofNat 4 n)) := by
  refine decode_encode ((feedCount_eq_true_iff _).mpr ?_)
  rw [ofNat_count_toNat h8]
  exact ⟨h1, h8⟩

/-- CRC_FEED n, a feeds the n low bytes of a (42_crc.md R106). -/
theorem feeds_feedCommand {n : Nat} (h1 : 1 ≤ n) (h8 : n ≤ 8) (a : Word64) : Feeds [feedCommand n a] (wireBytes n a) := by
  have hd := decode_feedCommand h1 h8 a
  refine ⟨List.forall_mem_singleton.mpr ((writesCrc_iff _).mpr (.inr ⟨_, hd⟩)), fun v => (crcEffect_of_crcFeed v hd).trans ?_⟩
  rw [ofNat_count_toNat h8]
  rfl

/-- CRC_FEED "s" feeds s (30_encoding.md R60). -/
theorem feeds_feedBytes {bytes : List Byte} (h1 : 1 ≤ bytes.length) (h8 : bytes.length ≤ 8) : Feeds [feedBytes bytes] bytes := by
  have h := feeds_feedCommand h1 h8 (BitVec.ofNat 64 (wireValue bytes))
  rwa [wireBytes_wireValue h8] at h

/-- The CRC_FEED 8 commands of CRC_BYTES feed the whole groups of 8 bytes. -/
theorem feeds_wholeGroups (s : List Byte) (m : Nat) (hm : 8 * m ≤ s.length) :
    Feeds ((List.range m).map fun k => feedBytes ((s.drop (8 * k)).take 8)) (s.take (8 * m)) := by
  induction m with
  | zero => exact Feeds.nil
  | succ m ih =>
    have hlen : ((s.drop (8 * m)).take 8).length = 8 := by
      rw [List.length_take, List.length_drop]
      omega
    have hgroup : Feeds [feedBytes ((s.drop (8 * m)).take 8)] ((s.drop (8 * m)).take 8) :=
      feeds_feedBytes (by omega) (by omega)
    rw [List.range_succ, List.map_append, Nat.mul_succ, List.take_add]
    exact (ih (by omega)).append hgroup

/-- CRC_BYTES "s" feeds s, whatever its length (30_encoding.md R61). -/
theorem feeds_crcBytesCommands (s : List Byte) : Feeds (crcBytesCommands s) s := by
  have hwhole := feeds_wholeGroups s (s.length / 8) (by omega)
  have hlast : Feeds (if s.length % 8 = 0 then [] else [feedBytes (s.drop (8 * (s.length / 8)))])
      (s.drop (8 * (s.length / 8))) := by
    split
    · rw [List.drop_of_length_le (by omega)]
      exact Feeds.nil
    · refine feeds_feedBytes ?_ ?_ <;> rw [List.length_drop] <;> omega
  have hboth := hwhole.append hlast
  rwa [List.take_append_drop] at hboth

end Sys2Proof.Machine
end

section
/-!
The check sequence of a frame (42_crc.md R112 to R116): a reset, commands that feed the check image, and the comparison.
-/
namespace Sys2Proof

/-- The wire bytes of a narrower value are those of its zero-extension (42_crc.md R112). -/
theorem wireBytes_zext64 {w n : Nat} (hn : 8 * n ≤ w) (hw : w ≤ 64) (v : BitVec w) : wireBytes n (zext64 v) = wireBytes n v := by
  rw [wireBytes_eq_map, wireBytes_eq_map]
  refine List.map_congr_left fun k hk => ?_
  have hk := List.mem_range.mp hk
  exact BitVec.extractLsb'_setWidth_of_le (by omega)

namespace Machine
open Safety

/-- The commands of the check sequence between its reset and its comparison. -/
def checkFeeds (cfg : Cfg) (f : Frame) : List Transaction :=
  [feedCommand 2 (zext64 (f.hw.extractLsb 31 16))] ++
  (if (unpackHeader cfg f.hw).ext cfg then crcField64Commands f.length else []) ++
  crcField32Commands (zext64 f.messageId) ++
  (if (unpackHeader cfg f.hw).rsp then crcField32Commands (zext64 f.responseToId) else []) ++
  (if (unpackHeader cfg f.hw).mask then crcField32Commands (zext64 f.maskKey) else []) ++
  crcZero4Commands ++
  crcBytesCommands f.payload

theorem checkSequence_eq (cfg : Cfg) (f : Frame) :
    checkSequence cfg f = command .crcInit 0 0 :: checkFeeds cfg f ++ [command .crcCheck (zext64 f.crc) 0] := by
  simp only [checkSequence, checkFeeds, crcResetCommands, List.append_assoc, List.cons_append, List.nil_append]

theorem feeds_crcField32 (v : Word32) : Feeds (crcField32Commands (zext64 v)) (wireBytes 4 v) := by
  have h := feeds_feedCommand (n := 4) (by decide) (by decide) (zext64 v)
  rwa [wireBytes_zext64 (by decide) (by decide)] at h

/-- Each command of the sequence feeds its part of the check image (R112, R116). -/
theorem feeds_checkFeeds (cfg : Cfg) (f : Frame) : Feeds (checkFeeds cfg f) (checkImage cfg f) := by
  have hheader : Feeds [feedCommand 2 (zext64 (f.hw.extractLsb 31 16))] [f.hw.extractLsb 31 24, f.hw.extractLsb 23 16] := by
    have h := feeds_feedCommand (n := 2) (by decide) (by decide) (zext64 (f.hw.extractLsb 31 16))
    rw [wireBytes_zext64 (by decide) (by decide)] at h
    have h0 : byteAt (f.hw.extractLsb 31 16) 0 = f.hw.extractLsb 23 16 := extractLsb'_extractLsb' f.hw (by decide)
    have h1 : byteAt (f.hw.extractLsb 31 16) 1 = f.hw.extractLsb 31 24 := extractLsb'_extractLsb' f.hw (by decide)
    rwa [wireBytes, wireBytes, wireBytes, h0, h1] at h
  have hlength : Feeds (crcField64Commands f.length) (wireBytes 8 f.length) := feeds_feedCommand (by decide) (by decide) _
  have hzero : Feeds crcZero4Commands [0x00, 0x00, 0x00, 0x00] := feeds_feedCommand (n := 4) (by decide) (by decide) 0
  exact ((((((hheader.append (hlength.ite _)).append (feeds_crcField32 _)).append ((feeds_crcField32 _).ite _)).append
    ((feeds_crcField32 _).ite _)).append hzero).append (feeds_crcBytesCommands _))

/-- CRC_INIT 0 and the feeds leave the frame CRC, whatever CRC was (R113). -/
theorem effectOf_checkFeeds (cfg : Cfg) (f : Frame) (v : Word32) :
    effectOf (command .crcInit 0 0 :: checkFeeds cfg f) v = frameCrc cfg f := by
  have hinit : crcEffect (command .crcInit 0 0) v = 0 := crcEffect_of_crcInit v (decode_encode rfl)
  rw [effectOf, List.foldl_cons, hinit]
  exact (feeds_checkFeeds cfg f).effect 0

/-- The reply of the comparison to agent 0 (R115). -/
def checkReply (passes : Bool) : Reply :=
  if passes then { agent := 0, res := 1, st := 0x00 } else { agent := 0, res := 0, st := 0x04 }

/-- CRC_CHECK leaves CRC and reports whether it is the value on OPA (R108). -/
theorem exec_crcCheck_zext64 {s t : State} {v : Word32} (hissuer : s.issuer = 0) (hopa : s.port.opa = zext64 v)
    (h : exec .crcCheck s = .next t) : t.crc = s.crc ∧ t.reply = some (checkReply (s.crc == v)) := by
  have hv : opa32 s = v := (congrArg (BitVec.extractLsb 31 0) hopa).trans (extractLsb_zext64 v)
  by_cases hcrc : s.crc = v
  · obtain rfl := Host.Outcome.next.inj ((exec_crcCheck_of_eq (hcrc.trans hv.symm)).symm.trans h)
    refine ⟨rfl, ?_⟩
    rw [hcrc, beq_self_eq_true, hissuer]
    rfl
  · obtain rfl := Host.Outcome.next.inj ((exec_crcCheck_of_ne (hv.symm ▸ hcrc)).symm.trans h)
    refine ⟨rfl, ?_⟩
    rw [State.finish_reply, beq_false_of_ne hcrc, hissuer]
    rfl

/-- The check sequence, run from any state, ends in the comparison with the frame CRC (R116). -/
theorem run_checkSequence (s : State) (f : Frame) : ∃ t : State,
    Host.Core.run core (checkSequence s.cfg f).length (running (checkSequence s.cfg f) s) = .next t ∧
    t.crc = frameCrc s.cfg f ∧ t.reply = some (checkReply (framePasses s.cfg f)) := by
  rw [checkSequence_eq]
  have hwrites : ∀ c ∈ command .crcInit 0 0 :: checkFeeds s.cfg f, writesCrc c.cmd = true :=
    List.forall_mem_cons.mpr ⟨rfl, (feeds_checkFeeds s.cfg f).writes⟩
  obtain ⟨u, hu, hcrc, -, -, hwu⟩ := Waiting.run (ds := [command .crcCheck (zext64 f.crc) 0]) hwrites (waiting_running _ s)
  rw [effectOf_checkFeeds] at hcrc
  obtain ⟨t, ht, hrun, -⟩ := hwu.step
  have hcheck : decode (command .crcCheck (zext64 f.crc) 0).cmd = .ok .crcCheck := decode_encode rfl
  have hexec := (runCommand_of_decode_ok (s := u.accept 0 _ _) hcheck).symm.trans hrun
  obtain ⟨htcrc, hreply⟩ := exec_crcCheck_zext64 rfl rfl hexec
  rw [State.accept_crc, hcrc] at htcrc hreply
  refine ⟨t, ?_, htcrc, hreply⟩
  rw [List.length_append]
  exact (run_add hu 1).trans (run_succ ht 0)

/-- R186: of HDR_UNPACK's status the host reads STRUCT, which is whether RSV is not 0. -/
theorem headerStatus_and_stStruct (struct ext : Bool) : (headerStatus struct ext &&& stStruct == 0) = !struct := by
  revert struct ext
  decide

theorem rsvnz_unpackHeader (cfg : Cfg) (hw : Word32) : (unpackHeader cfg hw).rsvnz = !reservedBitsClear cfg hw := by
  rw [HeaderFields.rsvnz_eq_decide, decide_not, Bool.not_inj_iff, Bool.eq_iff_iff, reservedBitsClear_iff, decide_eq_true_iff]

theorem hostMayDeliver_eq (u : Reply) {cfg : Cfg} {f : Frame}
    (hu : u.st = headerStatus (unpackHeader cfg f.hw).rsvnz ((unpackHeader cfg f.hw).ext cfg)) :
    hostMayDeliver u (checkReply (framePasses cfg f)) = (reservedBitsClear cfg f.hw && framePasses cfg f) := by
  rw [hostMayDeliver, hu, headerStatus_and_stStruct, rsvnz_unpackHeader, Bool.not_not]
  cases framePasses cfg f <;> rfl

end Machine
end Sys2Proof
end

section
/-! The statements about command sequences (42_crc.md R104, R116). -/
namespace Sys2Proof
open Machine Safety

/-- Settles O57: the commands feed the bytes (`feeds_crcBytesCommands`), and commands that write CRC leave STICKY. -/
theorem crcBytesComputesCalculate : Obligations.CrcBytesComputesCalculate := by
  intro s bytes
  have hfeeds := feeds_crcBytesCommands bytes
  have hwaiting : Waiting (crcBytesCommands bytes ++ []) (running (crcBytesCommands bytes) s) := by
    rw [List.append_nil]
    exact waiting_running _ s
  obtain ⟨t, ht, hcrc, hsticky, -, -, horder⟩ := Waiting.run hfeeds.writes hwaiting
  exact ⟨t, ht, hcrc.trans (hfeeds.effect s.crc), hsticky, horder⟩

/-- Settles O58: the sequence ends in the comparison with the frame CRC, and the host reads its RES and HDR_UNPACK's STRUCT. -/
theorem frameCheckSequenceDecides : Obligations.FrameCheckSequenceDecides := by
  intro s f
  obtain ⟨t, ht, hcrc, hreply⟩ := run_checkSequence s f
  have hw : opa32 (withOperands s (f.hw.setWidth 64) 0) = f.hw := extractLsb_zext64 f.hw
  refine ⟨t, ht, hcrc, hreply, _, _, rfl, rfl, ?_⟩
  rw [hreply, Option.map_some]
  refine congrArg some (hostMayDeliver_eq _ ?_)
  rw [hw]
  rfl

end Sys2Proof
end

section
/-!
The assembler line by line (30_encoding.md R60, R61): which commands take no, one or two numbers, and what a number gives.
-/
namespace Sys2Proof.Machine

/-- The commands that take no operand (R60). -/
def noOperandInstrs : List Instr := [.nop, .ident, .statRd, .statClr, .crcRead, .endProbe]

/-- The commands that take one number, which goes to OPA. -/
def oneOperandInstrs : List Instr :=
  [.crcInit, .crcCheck, .crcTab, .endSwap64, .endHton64, .endNtoh64, .endHton32, .endNtoh32, .endHton16, .endNtoh16, .hdrUnpack]

/-- The commands that take two numbers, which go to OPA and OPB. -/
def twoOperandInstrs : List Instr := [.hdrPack, .hdrLen]

/-- Every command but CRC_FEED is in one of the three lists. -/
theorem operand_classes (i : Instr) :
    i ∈ noOperandInstrs ∨ i ∈ oneOperandInstrs ∨ i ∈ twoOperandInstrs ∨ ∃ n, i = .crcFeed n := by
  cases i <;> simp [noOperandInstrs, oneOperandInstrs, twoOperandInstrs]

section Lines
variable {i : Instr} (ops : List Operand)

theorem assemble_noOperand (h : i ∈ noOperandInstrs) : assemble ⟨i.mnemonic, ops⟩ = asmNone [command i 0 0] ops := by
  fin_cases h <;> rfl

theorem assemble_oneOperand (h : i ∈ oneOperandInstrs) :
    assemble ⟨i.mnemonic, ops⟩ = asmOne (fun a => [command i a 0]) ops := by
  fin_cases h <;> rfl

theorem assemble_twoOperand (h : i ∈ twoOperandInstrs) : assemble ⟨i.mnemonic, ops⟩ = asmTwo i ops := by
  fin_cases h <;> rfl

end Lines

/-! R60: a number below 2^64 is the operand, and no other is taken. -/
section Numbers
variable {a b : Nat}

theorem operandWord_of_lt (h : a < 2 ^ 64) : operandWord a = .ok (BitVec.ofNat 64 a) := if_pos h

theorem operandWord_of_ge (h : 2 ^ 64 ≤ a) : operandWord a = .error .numberTooBig := if_neg (Nat.not_lt.mpr h)

theorem asmOne_of_lt (emit : Word64 → List Transaction) (h : a < 2 ^ 64) :
    asmOne emit [.num a] = .ok (emit (BitVec.ofNat 64 a)) := by
  rw [asmOne, operandWord_of_lt h]
  rfl

theorem asmOne_of_ge (emit : Word64 → List Transaction) (h : 2 ^ 64 ≤ a) : ∃ e, asmOne emit [.num a] = .error e := by
  rw [asmOne, operandWord_of_ge h]
  exact ⟨_, rfl⟩

theorem asmTwo_of_lt (i : Instr) (ha : a < 2 ^ 64) (hb : b < 2 ^ 64) :
    asmTwo i [.num a, .num b] = .ok [command i (BitVec.ofNat 64 a) (BitVec.ofNat 64 b)] := by
  rw [asmTwo, operandWord_of_lt ha, operandWord_of_lt hb]
  rfl

theorem asmTwo_of_ge (i : Instr) (h : 2 ^ 64 ≤ a ∨ 2 ^ 64 ≤ b) : ∃ e, asmTwo i [.num a, .num b] = .error e := by
  rcases Nat.lt_or_ge a (2 ^ 64) with ha | ha
  · have hb := h.resolve_left (Nat.not_le.mpr ha)
    rw [asmTwo, operandWord_of_lt ha, operandWord_of_ge hb]
    exact ⟨_, rfl⟩
  · rw [asmTwo, operandWord_of_ge ha]
    exact ⟨_, rfl⟩

end Numbers

/-! CRC_FEED with a count and a number, and with a string (R60). -/
section Feed
variable {n a : Nat} {s : List Byte}

theorem asmFeed_num (h1 : 1 ≤ n) (h8 : n ≤ 8) : asmFeed [.num n, .num a] = asmOne (fun w => [feedCommand n w]) [.num a] :=
  if_pos ⟨h1, h8⟩

theorem asmFeed_num_of_bad (h : n = 0 ∨ 8 < n ∨ 2 ^ 64 ≤ a) : ∃ e, asmFeed [.num n, .num a] = .error e := by
  by_cases hn : 1 ≤ n ∧ n ≤ 8
  · rw [asmFeed_num hn.1 hn.2]
    exact asmOne_of_ge _ (by omega)
  · exact ⟨_, if_neg hn⟩

theorem asmFeed_str (h1 : 1 ≤ s.length) (h8 : s.length ≤ 8) : asmFeed [.str s] = .ok [feedBytes s] := if_pos ⟨h1, h8⟩

theorem asmFeed_str_of_bad (h : s.length = 0 ∨ 8 < s.length) : ∃ e, asmFeed [.str s] = .error e :=
  ⟨_, if_neg (by omega)⟩

end Feed

/-! CRC_BYTES command by command (R61). -/
section Groups
variable (s : List Byte)

theorem crcBytesCommands_length :
    (crcBytesCommands s).length = s.length / 8 + if s.length % 8 = 0 then 0 else 1 := by
  rw [crcBytesCommands, List.length_append, List.length_map, List.length_range]
  split <;> rfl

/-- Eight bytes cut out are the bytes at those places. -/
theorem take_drop_eq_map {k : Nat} (h : 8 * k + 8 ≤ s.length) :
    (s.drop (8 * k)).take 8 = (List.range 8).map fun j => s.getD (8 * k + j) 0 := by
  apply List.ext_getElem
  · rw [List.length_take, List.length_drop, List.length_map, List.length_range]
    omega
  · intro j hj _
    have hj : 8 * k + j < s.length := by
      rw [List.length_take, List.length_drop] at hj
      omega
    simp [hj]

theorem crcBytesCommands_getElem?_of_lt {k : Nat} (h : k < s.length / 8) : (crcBytesCommands s)[k]? =
    some (feedCommand 8 (BitVec.ofNat 64 (wireValue ((List.range 8).map fun j => s.getD (8 * k + j) 0)))) := by
  have hgroup := take_drop_eq_map s (k := k) (by omega)
  rw [crcBytesCommands, List.getElem?_append_left (by simpa using h), List.getElem?_map, List.getElem?_range h, Option.map_some,
    hgroup, feedBytes, List.length_map, List.length_range]

theorem crcBytesCommands_getElem?_last (h : s.length % 8 ≠ 0) : (crcBytesCommands s)[s.length / 8]? =
    some (feedCommand (s.length % 8) (BitVec.ofNat 64 (wireValue (s.drop (s.length - s.length % 8))))) := by
  have hwhole : 8 * (s.length / 8) = s.length - s.length % 8 := by omega
  have hlen : (s.drop (s.length - s.length % 8)).length = s.length % 8 := by
    rw [List.length_drop]
    omega
  rw [crcBytesCommands, List.getElem?_append_right (by simp), if_neg h, hwhole, feedBytes, hlen, List.length_map,
    List.length_range, Nat.sub_self]
  rfl

end Groups

/-! The line the disassembler prints (R62): its operands, class by class, and the operands it assembles back to. -/
section Print
open Safety
variable {t : Transaction} {i : Instr}

/-- The operands a legal command prints with are those it reads (20_memory.md R42). -/
theorem operandsRead_noOperand (cfg : Cfg) (t : Transaction) (h : i ∈ noOperandInstrs) :
    operandsRead i t = [] ∧ readsA cfg i = 0 ∧ readsB i = 0 := by
  fin_cases h <;> exact ⟨rfl, rfl, rfl⟩

theorem operandsRead_oneOperand (cfg : Cfg) (t : Transaction) (h : i ∈ oneOperandInstrs) :
    operandsRead i t = [.num t.opa.toNat] ∧ readsA cfg i ≠ 0 ∧ readsB i = 0 := by
  fin_cases h <;> exact ⟨rfl, by simp only [readsA]; decide, rfl⟩

theorem operandsRead_twoOperand (t : Transaction) (h : i ∈ twoOperandInstrs) :
    operandsRead i t = [.num t.opa.toNat, .num t.opb.toNat] ∧ readsA Config.thisBlock i ≠ 0 ∧ readsB i ≠ 0 := by
  fin_cases h <;> exact ⟨rfl, by decide, by decide⟩

theorem readsA_crcFeed_ne_zero (cfg : Cfg) {n : BitVec 4} (h : feedCount n = true) : readsA cfg (.crcFeed n) ≠ 0 := by
  rw [readsA, if_pos ((feedCount_eq_true_iff n).mp h)]
  revert n
  decide

/-- Every printed operand is a number below 2^64. -/
theorem operandsRead_lt (t : Transaction) (i : Instr) : ∀ op ∈ operandsRead i t, ∃ n, n < 2 ^ 64 ∧ op = .num n := by
  have hword (v : Word64) : ∃ n, n < 2 ^ 64 ∧ Operand.num v.toNat = .num n := ⟨_, v.isLt, rfl⟩
  obtain h | h | h | ⟨n, rfl⟩ := operand_classes i
  · rw [(operandsRead_noOperand Config.thisBlock t h).1]
    exact nofun
  · rw [(operandsRead_oneOperand Config.thisBlock t h).1]
    exact List.forall_mem_singleton.mpr (hword _)
  · rw [(operandsRead_twoOperand t h).1]
    exact List.forall_mem_cons.mpr ⟨hword _, List.forall_mem_singleton.mpr (hword _)⟩
  · exact List.forall_mem_cons.mpr ⟨⟨_, n.isLt.trans (by decide), rfl⟩, List.forall_mem_singleton.mpr (hword _)⟩

/-- A legal command's line assembles to its word, with the operands it reads and 0 for the others. -/
theorem assemble_lineOf (hd : decode t.cmd = .ok i) : assemble (lineOf i t) = .ok [{
    cmd := t.cmd, opa := if readsA Config.thisBlock i = 0 then 0 else t.opa, opb := if readsB i = 0 then 0 else t.opb }] := by
  obtain ⟨hcmd, hwf⟩ := encode_of_decode_ok hd
  rw [lineOf, ← hcmd]
  obtain h | h | h | ⟨n, rfl⟩ := operand_classes i
  · obtain ⟨hops, ha, hb⟩ := operandsRead_noOperand Config.thisBlock t h
    rw [hops, if_pos ha, if_pos hb, assemble_noOperand _ h]
    rfl
  · obtain ⟨hops, ha, hb⟩ := operandsRead_oneOperand Config.thisBlock t h
    rw [hops, if_neg ha, if_pos hb, assemble_oneOperand _ h, asmOne_of_lt _ t.opa.isLt, BitVec.ofNat_toNat,
      BitVec.setWidth_eq]
    rfl
  · obtain ⟨hops, ha, hb⟩ := operandsRead_twoOperand t h
    rw [hops, if_neg ha, if_neg hb, assemble_twoOperand _ h, asmTwo_of_lt _ t.opa.isLt t.opb.isLt, BitVec.ofNat_toNat,
      BitVec.ofNat_toNat, BitVec.setWidth_eq, BitVec.setWidth_eq]
    rfl
  · obtain ⟨h1, h8⟩ := (feedCount_eq_true_iff n).mp hwf
    have hb : readsB (.crcFeed n) = 0 := rfl
    rw [if_neg (readsA_crcFeed_ne_zero _ hwf), if_pos hb]
    refine (asmFeed_num h1 h8).trans ?_
    rw [asmOne_of_lt _ t.opa.isLt, BitVec.ofNat_toNat, BitVec.setWidth_eq, feedCommand,
      BitVec.ofNat_toNat, BitVec.setWidth_eq]
    rfl

theorem disassemble_of_decode_ok (h : decode t.cmd = .ok i) : disassemble t = lineText (lineOf i t) := by
  rw [disassemble, h]

theorem disassemble_of_illegal (h : legal t.cmd = false) : disassemble t = ".word 0x" ++ hexText 8 t.cmd.toNat := by
  rw [disassemble]
  cases hd : decode t.cmd with
  | ok i => exact absurd ((legal_of_decode_ok hd).symm.trans h) Bool.noConfusion
  | error e => rfl

end Print

end Sys2Proof.Machine
end

section
/-! The statements about the assembler and the disassembler (30_encoding.md R60 to R62). -/
namespace Sys2Proof
open Machine Safety

/-- Settles O59: the three classes of commands, CRC_FEED's two forms, and CRC_BYTES group by group. -/
theorem assemblerPlacesOperands : Obligations.AssemblerPlacesOperands := by
  refine ⟨fun i hi => assemble_noOperand [] hi, fun i a hi => ?_, fun i a b hi => ?_,
    fun n a => ⟨fun h1 h8 ha => ?_, asmFeed_num_of_bad⟩, fun bytes => ⟨fun h1 h8 => ?_, asmFeed_str_of_bad⟩, rfl, rfl,
    fun v => ⟨rfl, rfl⟩, fun bytes => ⟨_, rfl, crcBytesCommands_length bytes, fun k => crcBytesCommands_getElem?_of_lt bytes,
      crcBytesCommands_getElem?_last bytes⟩⟩
  · rw [assemble_oneOperand _ hi]
    exact ⟨asmOne_of_lt _, asmOne_of_ge _⟩
  · rw [assemble_twoOperand _ hi]
    exact ⟨asmTwo_of_lt i, asmTwo_of_ge i⟩
  · exact ⟨_, (asmFeed_num h1 h8).trans (asmOne_of_lt _ ha), decode_feedCommand h1 h8 (BitVec.ofNat 64 a)⟩
  · exact ⟨_, asmFeed_str h1 h8, decode_feedCommand h1 h8 (BitVec.ofNat 64 (wireValue bytes))⟩

/-- Settles O60: an illegal word has no other print; a legal word's line assembles to its own word (`assemble_lineOf`), and its
text reads back as that line. -/
theorem disassemblyAssemblesBack : Obligations.DisassemblyAssemblesBack := by
  refine ⟨fun t ht => ?_, fun t i hd => ?_⟩
  · exact disassemble_of_illegal ht
  · have hprint := disassemble_of_decode_ok hd
    have hline := assemble_lineOf hd
    refine ⟨hprint, hline, ?_⟩
    rw [hprint]
    exact (assembleText_lineText i _ (operandsRead_lt t i)).trans hline

end Sys2Proof
end
